-- ==== Sys2Proof/Word.lean ====
section
/-! DEFINITION. The machine word and byte of the Herky 6000.

The spec takes the word size as a parameter W with default 64 (00_scope.md R7, R8); a model fixes it before
proving anything (70_reset_and_hazards.md R319). This model fixes W = 64, WB = 8 (log 1). -/

namespace Sys2Proof

/-- A value of W = 64 bits: a register, an address, a port number (R7, R11, R50). -/
abbrev Word := BitVec 64

/-- A byte of memory or of the instruction stream: 8 bits (R9, R50). -/
abbrev Byte := BitVec 8

/-- A 4-bit field of the instruction base (R81). -/
abbrev Nibble := BitVec 4

end Sys2Proof
end

