-- ==== Sys2Proof/Config.lean ====
section
/-! DEFINITION. What an implementation fixes (00_scope.md R8) and the free values.

`Config` is the record of the spec's parameters as plain data. The opaque constants below stand for what the
spec leaves to the outside world or leaves unspecified: they have no body, so nothing can be proved of their
values. The function SetEffect, which reads the whole state, stands in Machine/Platform.lean. -/

namespace Sys2Proof

/-- The processor mode (10_state.md R33, 60_exceptions.md R280). -/
inductive Mode where
  | supervisor
  | application
  deriving DecidableEq, Repr

/-- How a value narrower than a word is widened (40_operands.md R127). -/
inductive Ext where
  | sign
  | zero
  deriving DecidableEq, Repr

/-- The three readings of what the nine ALU instructions do to the flags (parameter ALU_FLAGS, 10_state.md R31). -/
inductive AluFlags where
  | unspecified
  | result
  | preserve
  deriving DecidableEq, Repr

/-- The kind of a memory access (20_memory.md R51, 60_exceptions.md R265). -/
inductive AccessKind where
  | fetch
  | read
  | write
  deriving DecidableEq, Repr

/-- A function from mode to mode, as data (60_exceptions.md R283). -/
structure ModeMap where
  fromSupervisor  : Mode
  fromApplication : Mode
  deriving DecidableEq, Repr

/-- A test of one setting (10_state.md R36): the bits of the value under the mask are those given. -/
structure SettingTest where
  key   : Word
  mask  : Word
  value : Word
  deriving DecidableEq, Repr

/-- The function from mode to mode that applies where all the tests hold. -/
structure ModeCase where
  tests  : List SettingTest
  result : ModeMap
  deriving DecidableEq, Repr

/-- The parameters modeOnEntry and modeOnRTI (60_exceptions.md R283): a function from mode to mode, which may be chosen
by what the settings hold: the first case whose tests hold applies, otherwise the last one (log 17). A function of the
mode alone has no cases. -/
structure ModeRule where
  cases     : List ModeCase
  otherwise : ModeMap
  deriving DecidableEq, Repr

/-- What the platform does not admit of the `size` addresses from `base` up, for one kind of access. Without a width no
memory of that kind is there: every access that touches one of the addresses is refused (60_exceptions.md R265). With a
width, every access of exactly that many bytes that begins at one of the addresses is refused. MemMap, a predicate on
address, size and kind (20_memory.md R51), is held as the list of what it refuses (log 18). -/
structure Hole where
  base  : Nat
  size  : Nat
  kind  : AccessKind
  width : Option Nat
  deriving DecidableEq, Repr

/-- The spec's parameters (00_scope.md R8), fixed for a run. W is fixed at 64 (log 1); the oracles IrqOracle and
PortRead and the function SetEffect are opaque constants (logs 13, 14, 15). -/
structure Config where
  /-- DATA_BIG_ENDIAN, 20_memory.md R53. -/
  dataBigEndian    : Bool
  /-- NARROW_EXT, 40_operands.md R127. -/
  narrowExt        : Ext
  /-- ADDR_IMM_EXT, 40_operands.md R128. -/
  addrImmExt       : Ext
  /-- ALU_FLAGS, 10_state.md R31. -/
  aluFlags         : AluFlags
  /-- JLE_INCLUDES_EQUAL, 44_control.md R220. -/
  jleIncludesEqual : Bool
  /-- DIV_SIGNED, 41_arith_logic.md R147. -/
  divSigned        : Bool
  /-- STRICT_RESERVED, 30_encoding.md R104. -/
  strictReserved   : Bool
  /-- RESET_PC, 70_reset_and_hazards.md R301. -/
  resetPc          : Word
  /-- APPLICATION_INDEX, 45_system.md R241, 60_exceptions.md R273. -/
  applicationIndex : Nat
  /-- modeOnEntry, 60_exceptions.md R283. -/
  modeOnEntry      : ModeRule
  /-- modeOnRTI, 60_exceptions.md R283. -/
  modeOnRti        : ModeRule
  /-- MemMap as the list of what it refuses, 20_memory.md R51. -/
  holes            : List Hole
  deriving DecidableEq, Repr

/-- One of the three system flags (10_state.md R28). -/
inductive FlagName where
  | zf
  | sf
  | ovf
  deriving DecidableEq, Repr

/-- One transfer between the core and the port space (10_state.md R37): the port number, the number of bytes,
and the value, in program order (45_system.md R246, R249). -/
inductive PortEvent where
  | read  (port : Word) (bytes : Nat) (value : Word)
  | write (port : Word) (bytes : Nat) (value : Word)
  deriving DecidableEq, Repr

/-- One change that SET may make to the state: the special registers (SP, the flags, the mode, AI), an entry of
the Vector Table, or another setting. These are all the things R252 of 45_system.md says SetEffect may change. -/
inductive SettingWrite where
  | sp      (v : Word)
  | flag    (f : FlagName) (b : Bool)
  | mode    (m : Mode)
  | ai      (b : Bool)
  | vector  (k : Nat) (v : Word)
  | setting (key value : Word)
  deriving DecidableEq, Repr

/-- FREE VALUE (log 10): what a byte of memory that nothing has written holds (10_state.md R43,
93_implementation_defined.md U1), by address. -/
opaque Config.initialByte : Nat → Byte

/-- FREE VALUE (log 11): the arbitrary bit that an ALU instruction leaves in a flag under ALU_FLAGS = unspecified,
by draw and flag (10_state.md R31, 41_arith_logic.md R141). -/
opaque Config.freeFlag : Nat → FlagName → Bool

/-- FREE VALUE (log 13): the request IrqOracle yields at a draw, given the port transfers made so far
(60_exceptions.md R270). -/
opaque Config.irqOracle : Nat → List PortEvent → Option Nat

/-- FREE VALUE (log 14): what the outside world supplies for a port read of some bytes at a draw, given the port
transfers made so far (45_system.md R246). -/
opaque Config.portRead : Nat → List PortEvent → Word → Nat → Word

/-- FREE VALUE (log 16): the source's ApplicationIndex, to which it gives no value (60_exceptions.md R273). -/
opaque Config.openApplicationIndex : Nat

end Sys2Proof
end

