-- ==== Sys2Proof/Syntax.lean ====
section
/-! DEFINITION. The instructions, as syntax.

One constructor of `Instr` for each of the 117 rows of spec/opcode_table.json: an instruction in one addressing
mode (30_encoding.md R83, R95, R98), for Jcc also with one condition. A constructor carries exactly the fields that
its row uses (R104): `idx` the index register, `sz` the Size code, `a` the register in Operand A, `b` the register in
Operand B, `imm` the immediate whose size code stands in Operand B. Size codes and immediate size codes above 3 are
illegal with W = 64 (R86, R89), so `Size` has four constructors. -/

namespace Sys2Proof

/-- The sixteen general registers (10_state.md R20). -/
inductive Reg where
  | r0 | r1 | r2 | r3 | r4 | r5 | r6 | r7 | r8 | r9 | r10 | r11 | r12 | r13 | r14 | r15
  deriving DecidableEq, Repr

/-- The legal Size codes: 1, 2, 4, 8 bytes (30_encoding.md R85, R86, R87, R89). -/
inductive Size where
  | b1 | b2 | b4 | b8
  deriving DecidableEq, Repr

/-- The number of bytes 2^code of a Size code (30_encoding.md R85). -/
def Size.bytes : Size → Nat
  | .b1 => 1
  | .b2 => 2
  | .b4 => 4
  | .b8 => 8

/-- An immediate: its size code and its raw value, zero above its own bytes (30_encoding.md R87, R88). -/
structure Imm where
  size  : Size
  value : Word
  deriving DecidableEq, Repr

/-- The four memory modes (30_encoding.md R83, 40_operands.md R121). -/
inductive MemOperand where
  | ind    (b : Reg)
  | dir    (imm : Imm)
  | indIdx (idx b : Reg)
  | dirIdx (idx : Reg) (imm : Imm)
  deriving DecidableEq, Repr

/-- The Source operand of a two-operand instruction in its six modes (40_operands.md R123). `sz` is the Size code,
the width of the memory operand. -/
inductive Source where
  | reg (b : Reg)
  | imm (imm : Imm)
  | mem (sz : Size) (m : MemOperand)
  deriving DecidableEq, Repr

/-- The single operand of PUSH, CALL and Jcc in its two modes (40_operands.md R124). -/
inductive UnarySource where
  | reg (b : Reg)
  | imm (imm : Imm)
  deriving DecidableEq, Repr

/-- The nine conditions of the Jcc page (44_control.md R216). -/
inductive Cond where
  | ne | e | g | ge | l | le | no | o | always
  deriving DecidableEq, Repr

/-- The instructions: one constructor for each row of spec/opcode_table.json. -/
inductive Instr where
  /-- AND reg, reg (R143). -/
  | andRegReg (a b : Reg)
  /-- AND reg, imm (R143). -/
  | andRegImm (a : Reg) (imm : Imm)
  /-- AND reg, [reg] (R143). -/
  | andRegInd (sz : Size) (a b : Reg)
  /-- AND reg, [imm] (R143). -/
  | andRegDir (sz : Size) (a : Reg) (imm : Imm)
  /-- AND reg, [reg + idx] (R143). -/
  | andRegIndIdx (idx : Reg) (sz : Size) (a b : Reg)
  /-- AND reg, [imm + idx] (R143). -/
  | andRegDirIdx (idx : Reg) (sz : Size) (a : Reg) (imm : Imm)
  /-- OR reg, reg (R151). -/
  | orRegReg (a b : Reg)
  /-- OR reg, imm (R151). -/
  | orRegImm (a : Reg) (imm : Imm)
  /-- OR reg, [reg] (R151). -/
  | orRegInd (sz : Size) (a b : Reg)
  /-- OR reg, [imm] (R151). -/
  | orRegDir (sz : Size) (a : Reg) (imm : Imm)
  /-- OR reg, [reg + idx] (R151). -/
  | orRegIndIdx (idx : Reg) (sz : Size) (a b : Reg)
  /-- OR reg, [imm + idx] (R151). -/
  | orRegDirIdx (idx : Reg) (sz : Size) (a : Reg) (imm : Imm)
  /-- XOR reg, reg (R153). -/
  | xorRegReg (a b : Reg)
  /-- XOR reg, imm (R153). -/
  | xorRegImm (a : Reg) (imm : Imm)
  /-- XOR reg, [reg] (R153). -/
  | xorRegInd (sz : Size) (a b : Reg)
  /-- XOR reg, [imm] (R153). -/
  | xorRegDir (sz : Size) (a : Reg) (imm : Imm)
  /-- XOR reg, [reg + idx] (R153). -/
  | xorRegIndIdx (idx : Reg) (sz : Size) (a b : Reg)
  /-- XOR reg, [imm + idx] (R153). -/
  | xorRegDirIdx (idx : Reg) (sz : Size) (a : Reg) (imm : Imm)
  /-- ADD reg, reg (R142). -/
  | addRegReg (a b : Reg)
  /-- ADD reg, imm (R142). -/
  | addRegImm (a : Reg) (imm : Imm)
  /-- ADD reg, [reg] (R142). -/
  | addRegInd (sz : Size) (a b : Reg)
  /-- ADD reg, [imm] (R142). -/
  | addRegDir (sz : Size) (a : Reg) (imm : Imm)
  /-- ADD reg, [reg + idx] (R142). -/
  | addRegIndIdx (idx : Reg) (sz : Size) (a b : Reg)
  /-- ADD reg, [imm + idx] (R142). -/
  | addRegDirIdx (idx : Reg) (sz : Size) (a : Reg) (imm : Imm)
  /-- SUB reg, reg (R152). -/
  | subRegReg (a b : Reg)
  /-- SUB reg, imm (R152). -/
  | subRegImm (a : Reg) (imm : Imm)
  /-- SUB reg, [reg] (R152). -/
  | subRegInd (sz : Size) (a b : Reg)
  /-- SUB reg, [imm] (R152). -/
  | subRegDir (sz : Size) (a : Reg) (imm : Imm)
  /-- SUB reg, [reg + idx] (R152). -/
  | subRegIndIdx (idx : Reg) (sz : Size) (a b : Reg)
  /-- SUB reg, [imm + idx] (R152). -/
  | subRegDirIdx (idx : Reg) (sz : Size) (a : Reg) (imm : Imm)
  /-- MUL reg, reg (R148). -/
  | mulRegReg (a b : Reg)
  /-- MUL reg, imm (R148). -/
  | mulRegImm (a : Reg) (imm : Imm)
  /-- MUL reg, [reg] (R148). -/
  | mulRegInd (sz : Size) (a b : Reg)
  /-- MUL reg, [imm] (R148). -/
  | mulRegDir (sz : Size) (a : Reg) (imm : Imm)
  /-- MUL reg, [reg + idx] (R148). -/
  | mulRegIndIdx (idx : Reg) (sz : Size) (a b : Reg)
  /-- MUL reg, [imm + idx] (R148). -/
  | mulRegDirIdx (idx : Reg) (sz : Size) (a : Reg) (imm : Imm)
  /-- DIV reg, reg (R147). -/
  | divRegReg (a b : Reg)
  /-- DIV reg, imm (R147). -/
  | divRegImm (a : Reg) (imm : Imm)
  /-- DIV reg, [reg] (R147). -/
  | divRegInd (sz : Size) (a b : Reg)
  /-- DIV reg, [imm] (R147). -/
  | divRegDir (sz : Size) (a : Reg) (imm : Imm)
  /-- DIV reg, [reg + idx] (R147). -/
  | divRegIndIdx (idx : Reg) (sz : Size) (a b : Reg)
  /-- DIV reg, [imm + idx] (R147). -/
  | divRegDirIdx (idx : Reg) (sz : Size) (a : Reg) (imm : Imm)
  /-- LDU reg, reg (R170). -/
  | lduRegReg (a b : Reg)
  /-- LDU reg, imm (R170). -/
  | lduRegImm (a : Reg) (imm : Imm)
  /-- LDU reg, [reg] (R170). -/
  | lduRegInd (sz : Size) (a b : Reg)
  /-- LDU reg, [imm] (R170). -/
  | lduRegDir (sz : Size) (a : Reg) (imm : Imm)
  /-- LDU reg, [reg + idx] (R170). -/
  | lduRegIndIdx (idx : Reg) (sz : Size) (a b : Reg)
  /-- LDU reg, [imm + idx] (R170). -/
  | lduRegDirIdx (idx : Reg) (sz : Size) (a : Reg) (imm : Imm)
  /-- LDR reg, reg (R171). -/
  | ldrRegReg (a b : Reg)
  /-- LDR reg, imm (R171). -/
  | ldrRegImm (a : Reg) (imm : Imm)
  /-- LDR reg, [reg] (R171). -/
  | ldrRegInd (sz : Size) (a b : Reg)
  /-- LDR reg, [imm] (R171). -/
  | ldrRegDir (sz : Size) (a : Reg) (imm : Imm)
  /-- LDR reg, [reg + idx] (R171). -/
  | ldrRegIndIdx (idx : Reg) (sz : Size) (a b : Reg)
  /-- LDR reg, [imm + idx] (R171). -/
  | ldrRegDirIdx (idx : Reg) (sz : Size) (a : Reg) (imm : Imm)
  /-- CMP reg, reg (R145). -/
  | cmpRegReg (a b : Reg)
  /-- CMP reg, imm (R145). -/
  | cmpRegImm (a : Reg) (imm : Imm)
  /-- CMP reg, [reg] (R145). -/
  | cmpRegInd (sz : Size) (a b : Reg)
  /-- CMP reg, [imm] (R145). -/
  | cmpRegDir (sz : Size) (a : Reg) (imm : Imm)
  /-- CMP reg, [reg + idx] (R145). -/
  | cmpRegIndIdx (idx : Reg) (sz : Size) (a b : Reg)
  /-- CMP reg, [imm + idx] (R145). -/
  | cmpRegDirIdx (idx : Reg) (sz : Size) (a : Reg) (imm : Imm)
  /-- IN reg, reg (R246). -/
  | inRegReg (sz : Size) (a b : Reg)
  /-- IN reg, imm (R246). -/
  | inRegImm (sz : Size) (a : Reg) (imm : Imm)
  /-- IN reg, [reg] (R246). -/
  | inRegInd (sz : Size) (a b : Reg)
  /-- IN reg, [imm] (R246). -/
  | inRegDir (sz : Size) (a : Reg) (imm : Imm)
  /-- IN reg, [reg + idx] (R246). -/
  | inRegIndIdx (idx : Reg) (sz : Size) (a b : Reg)
  /-- IN reg, [imm + idx] (R246). -/
  | inRegDirIdx (idx : Reg) (sz : Size) (a : Reg) (imm : Imm)
  /-- OUT reg, reg (R249). -/
  | outRegReg (sz : Size) (a b : Reg)
  /-- OUT reg, imm (R249). -/
  | outRegImm (sz : Size) (a : Reg) (imm : Imm)
  /-- OUT reg, [reg] (R249). -/
  | outRegInd (sz : Size) (a b : Reg)
  /-- OUT reg, [imm] (R249). -/
  | outRegDir (sz : Size) (a : Reg) (imm : Imm)
  /-- OUT reg, [reg + idx] (R249). -/
  | outRegIndIdx (idx : Reg) (sz : Size) (a b : Reg)
  /-- OUT reg, [imm + idx] (R249). -/
  | outRegDirIdx (idx : Reg) (sz : Size) (a : Reg) (imm : Imm)
  /-- SET reg, reg (R252). -/
  | setRegReg (sz : Size) (a b : Reg)
  /-- SET reg, imm (R252). -/
  | setRegImm (sz : Size) (a : Reg) (imm : Imm)
  /-- SET reg, [reg] (R252). -/
  | setRegInd (sz : Size) (a b : Reg)
  /-- SET reg, [imm] (R252). -/
  | setRegDir (sz : Size) (a : Reg) (imm : Imm)
  /-- SET reg, [reg + idx] (R252). -/
  | setRegIndIdx (idx : Reg) (sz : Size) (a b : Reg)
  /-- SET reg, [imm + idx] (R252). -/
  | setRegDirIdx (idx : Reg) (sz : Size) (a : Reg) (imm : Imm)
  /-- STR reg, [reg] (R173). -/
  | strRegInd (sz : Size) (a b : Reg)
  /-- STR reg, [imm] (R173). -/
  | strRegDir (sz : Size) (a : Reg) (imm : Imm)
  /-- STR reg, [reg + idx] (R173). -/
  | strRegIndIdx (idx : Reg) (sz : Size) (a b : Reg)
  /-- STR reg, [imm + idx] (R173). -/
  | strRegDirIdx (idx : Reg) (sz : Size) (a : Reg) (imm : Imm)
  /-- LEA reg, [reg] (R172). -/
  | leaRegInd (a b : Reg)
  /-- LEA reg, [imm] (R172). -/
  | leaRegDir (a : Reg) (imm : Imm)
  /-- LEA reg, [reg + idx] (R172). -/
  | leaRegIndIdx (idx : Reg) (sz : Size) (a b : Reg)
  /-- LEA reg, [imm + idx] (R172). -/
  | leaRegDirIdx (idx : Reg) (sz : Size) (a : Reg) (imm : Imm)
  /-- NOT reg (R150). -/
  | notReg (a : Reg)
  /-- NEG reg (R149). -/
  | negReg (a : Reg)
  /-- FREE reg (R196). -/
  | freeReg (a : Reg)
  /-- MARK reg (R195). -/
  | markReg (a : Reg)
  /-- POP reg (R194). -/
  | popReg (sz : Size) (a : Reg)
  /-- PUSH reg (R193). -/
  | pushReg (sz : Size) (b : Reg)
  /-- PUSH imm (R193). -/
  | pushImm (sz : Size) (imm : Imm)
  /-- CALL reg (R212). -/
  | callReg (b : Reg)
  /-- CALL imm (R212). -/
  | callImm (imm : Imm)
  /-- JNE reg (R221). -/
  | jneReg (b : Reg)
  /-- JNE imm (R221). -/
  | jneImm (imm : Imm)
  /-- JE reg (R222). -/
  | jeReg (b : Reg)
  /-- JE imm (R222). -/
  | jeImm (imm : Imm)
  /-- JG reg (R223). -/
  | jgReg (b : Reg)
  /-- JG imm (R223). -/
  | jgImm (imm : Imm)
  /-- JGE reg (R224). -/
  | jgeReg (b : Reg)
  /-- JGE imm (R224). -/
  | jgeImm (imm : Imm)
  /-- JL reg (R225). -/
  | jlReg (b : Reg)
  /-- JL imm (R225). -/
  | jlImm (imm : Imm)
  /-- JLE reg (R220). -/
  | jleReg (b : Reg)
  /-- JLE imm (R220). -/
  | jleImm (imm : Imm)
  /-- JNO reg (R226). -/
  | jnoReg (b : Reg)
  /-- JNO imm (R226). -/
  | jnoImm (imm : Imm)
  /-- JO reg (R227). -/
  | joReg (b : Reg)
  /-- JO imm (R227). -/
  | joImm (imm : Imm)
  /-- JMP reg (R228). -/
  | jmpReg (b : Reg)
  /-- JMP imm (R228). -/
  | jmpImm (imm : Imm)
  /-- RET (R230). -/
  | ret
  /-- SYS (R241). -/
  | sys
  /-- RTI (R243). -/
  | rti
  /-- NOP (R232). -/
  | nop
  deriving DecidableEq, Repr

end Sys2Proof
end

