-- ==== Sys2Proof/Machine/Bytes.lean ====
section
/-! DEFINITION. Bytes, byte order, widening and narrowing: the helpers that the decoder, memory and the operand
rules share. -/

namespace Sys2Proof.Machine

/-- The value of a string of bytes, the first byte the most significant (`b_0 ++ b_1 ++ ...`, 20_memory.md R55, R57),
as a word. -/
def bytesToWord (bytes : List Byte) : Word :=
  BitVec.ofNat 64 (bytes.foldl (fun acc b => acc * 256 + b.toNat) 0)

/-- The low `n` bytes of a word, the most significant first (20_memory.md R56). -/
def wordToBytes (n : Nat) (v : Word) : List Byte :=
  (List.range n).map fun i => (v >>> (8 * (n - 1 - i))).setWidth 8

/-- The bytes of a multi-byte datum as they lie in memory, given most significant first: as they are when
DATA_BIG_ENDIAN, otherwise reversed (20_memory.md R53). The same exchange turns memory order back. -/
def dataOrder (bigEndian : Bool) (bytes : List Byte) : List Byte :=
  if bigEndian then bytes else bytes.reverse

/-- `ext_k(v, N)` for N = 8 * 2^size bits (40_operands.md R127): the low N bits of `v`, widened to a word. -/
def widen (k : Ext) (sz : Size) (v : Word) : Word :=
  match k with
  | .sign => (v.setWidth (8 * sz.bytes)).signExtend 64
  | .zero => (v.setWidth (8 * sz.bytes)).setWidth 64

/-- `trunc_N(v)` for N = 8 * 2^size bits, as a word whose upper bits are zero (40_operands.md R129). -/
def truncate (sz : Size) (v : Word) : Word :=
  widen .zero sz v

/-- The first `n` bytes of a string and the rest, if there are that many. -/
def takeBytes : Nat → List Byte → Option (List Byte × List Byte)
  | 0, rest => some ([], rest)
  | _ + 1, [] => none
  | n + 1, b :: rest =>
    match takeBytes n rest with
    | some (front, back) => some (b :: front, back)
    | none => none

end Sys2Proof.Machine
end

