-- ==== Sys2Proof/Machine/Params.lean ====
section
/-! DEFINITION. The default configuration: the default column of 00_scope.md R8. -/

namespace Sys2Proof.Machine

/-- The spec's default value of every parameter (00_scope.md R8). RESET_PC has none: zero, DESIGN CHOICE (log 6).
APPLICATION_INDEX has none: an opaque constant (log 16). -/
def defaultConfig : Config :=
  { dataBigEndian    := true
    narrowExt        := .sign
    addrImmExt       := .zero
    aluFlags         := .unspecified
    jleIncludesEqual := false
    divSigned        := true
    strictReserved   := false
    resetPc          := 0
    applicationIndex := Config.openApplicationIndex
    modeOnEntry      := { cases := [], otherwise := { fromSupervisor := .supervisor, fromApplication := .supervisor } }
    modeOnRti        := { cases := [], otherwise := { fromSupervisor := .supervisor, fromApplication := .application } }
    holes            := [] }

end Sys2Proof.Machine
end

