-- ==== Sys2Proof/Machine/State.lean ====
section
/-! DEFINITION. The state of the machine (10_state.md), the fault and refusal reasons, and the state after reset. -/

namespace Sys2Proof.Machine

/-- The four faults of 60_exceptions.md R263. A fault raised by an instruction or by interrupt entry is a next state
whose status holds it (R262, log 19); the step of a machine whose status is already faulted answers it as the Host
outcome `fault`. -/
inductive Fault where
  /-- R260. Raised at decode by the step; the pc of the instruction and its first three bytes. Safe: nothing but the
  status changes. -/
  | illegalInstruction (pc : Word) (b0 b1 b2 : Byte)
  /-- R261. Raised by IN, OUT, SET and RTI in application mode; the pc of the instruction. Safe: nothing but the
  status changes. -/
  | privilegeViolation (pc : Word)
  /-- R264. Raised by DIV for a zero divisor and for the unrepresentable signed quotient. Safe: nothing but the
  status changes. -/
  | divideError
  /-- R265. Raised by a fetch, read or write that MemMap does not admit; its address and kind. Safe: nothing but the
  status changes. -/
  | memoryFault (addr : Word) (kind : AccessKind)
  deriving DecidableEq, Repr

/-- Why an instruction has no meaning. -/
inductive Refusal where
  /-- Raised by an arm of `exec` for an instruction with no meaning yet. No arm raises it. Safe. -/
  | notModelled (mnemonic : String)
  deriving DecidableEq, Repr

/-- Whether the machine runs or has stopped in a fault (60_exceptions.md R262). -/
inductive Status where
  | running
  | faulted (f : Fault)
  deriving DecidableEq, Repr

/-- The sixteen general registers (10_state.md R20, R22). -/
structure Regs where
  r0  : Word
  r1  : Word
  r2  : Word
  r3  : Word
  r4  : Word
  r5  : Word
  r6  : Word
  r7  : Word
  r8  : Word
  r9  : Word
  r10 : Word
  r11 : Word
  r12 : Word
  r13 : Word
  r14 : Word
  r15 : Word
  deriving DecidableEq, Repr

/-- Memory: the bytes that have been written or placed, by strictly rising address (log 10). What an unlisted address
reads as is said once, in `readByte` of Machine/Ops.lean. -/
abbrev Memory := List Host.Cell

/-- The state of the machine: the tuple of 10_state.md, the status of 60_exceptions.md R262, the trace of the port
space, the configuration, and the model's own inputs (INVENTORY.md, State). -/
structure State where
  /-- x[0] to x[15], R20. -/
  regs       : Regs
  /-- The instruction pointer, R24. -/
  pc         : Word
  /-- The stack pointer, R26. -/
  sp         : Word
  /-- ZF, R28. -/
  zf         : Bool
  /-- SF, R28. -/
  sf         : Bool
  /-- OF, R28. -/
  ovf        : Bool
  /-- The processor mode, R33. -/
  mode       : Mode
  /-- AllowInterrupts, R34. -/
  ai         : Bool
  /-- The Vector Table, R35: entries by rising index; an unlisted entry is zero (log 8). -/
  vt         : List (Nat × Word)
  /-- The other settings, R36: values by rising key; an unlisted setting is zero (log 9). -/
  settings   : List (Nat × Word)
  /-- Memory, R38. -/
  mem        : Memory
  /-- Running or faulted, 60_exceptions.md R262. -/
  status     : Status
  /-- The transfers made with the port space, oldest first, 45_system.md R246, R249. -/
  portTrace  : List PortEvent
  /-- The model's own: the supplied beginning of IrqOracle's sequence (log 13). -/
  irqScript  : List (Option Nat)
  /-- The model's own: the supplied beginning of PortRead's sequence (log 14). -/
  portScript : List Word
  /-- The model's own: the index of the next free draw (log 20). -/
  draws      : Nat
  /-- The parameters of 00_scope.md R8; no step changes them (log 2). -/
  cfg        : Config
  deriving DecidableEq, Repr

/-- Every general register at zero: the model's choice (log 3). -/
def Regs.zero : Regs :=
  { r0 := 0, r1 := 0, r2 := 0, r3 := 0, r4 := 0, r5 := 0, r6 := 0, r7 := 0
    r8 := 0, r9 := 0, r10 := 0, r11 := 0, r12 := 0, r13 := 0, r14 := 0, r15 := 0 }

/-- The state right after reset under a configuration (70_reset_and_hazards.md R300, 10_state.md R41): pc at RESET_PC,
supervisor mode, AI false, running. The spec leaves the rest unspecified: the values are the model's (logs 3 to 6, 8, 9,
10, 13, 14, 20). -/
def State.boot (cfg : Config) : State :=
  { regs       := Regs.zero
    pc         := cfg.resetPc
    sp         := 0
    zf         := false
    sf         := false
    ovf        := false
    mode       := .supervisor
    ai         := false
    vt         := []
    settings   := []
    mem        := []
    status     := .running
    portTrace  := []
    irqScript  := []
    portScript := []
    draws      := 0
    cfg        := cfg }

/-- The machine right after reset, with the spec's default parameters. -/
def State.reset : State := State.boot defaultConfig

end Sys2Proof.Machine
end

