-- ==== Sys2Proof/Machine/Memory.lean ====
section
/-! DEFINITION. Stores: lists of entries by strictly rising key. Memory, the Vector Table and the settings are
held as stores. -/

namespace Sys2Proof.Machine

/-- The entry a store lists at a key. -/
def storeGet {α : Type} : List (Nat × α) → Nat → Option α
  | [], _ => none
  | (k, v) :: rest, a => if k = a then some v else storeGet rest a

/-- The store with the entry at a key set, in its place. -/
def storePut {α : Type} : List (Nat × α) → Nat → α → List (Nat × α)
  | [], a, w => [(a, w)]
  | (k, v) :: rest, a, w =>
    if a < k then (a, w) :: (k, v) :: rest
    else if a = k then (a, w) :: rest
    else (k, v) :: storePut rest a w

/-- The store without an entry at a key. -/
def storeErase {α : Type} : List (Nat × α) → Nat → List (Nat × α)
  | [], _ => []
  | (k, v) :: rest, a => if k = a then storeErase rest a else (k, v) :: storeErase rest a

/-- Every key of the store lies above `lo`, if one is given, and the keys rise strictly. -/
def storeRising {α : Type} : Option Nat → List (Nat × α) → Bool
  | _, [] => true
  | lo, (k, _) :: rest =>
    (match lo with
      | none => true
      | some l => decide (l < k)) && storeRising (some k) rest

/-- Memory is in canonical form: addresses strictly rising and below 2^64. Every entry is a byte, which no unlisted
address holds (log 10). -/
def Memory.wf (m : Memory) : Bool :=
  storeRising none m && m.all fun c => decide (c.1 < 2 ^ 64)

/-- A table of words (the Vector Table or the settings) is in canonical form: keys strictly rising and no entry equal
to zero, which is what an unlisted entry reads as (logs 8, 9). -/
def tableWf (t : List (Nat × Word)) : Bool :=
  storeRising none t && t.all fun c => decide (c.2 ≠ 0)

/-- The value of an entry of a table of words: zero where it lists none (logs 8, 9). -/
def tableRead (t : List (Nat × Word)) (k : Nat) : Word :=
  match storeGet t k with
  | some v => v
  | none => 0

/-- A table of words with one entry written; writing zero removes the entry, so that equal tables are equal data. -/
def tableWrite (t : List (Nat × Word)) (k : Nat) (v : Word) : List (Nat × Word) :=
  if v = 0 then storeErase t k else storePut t k v

end Sys2Proof.Machine
end

