-- ==== Sys2Proof/Machine/Ops.lean ====
section
/-! DEFINITION. The named operations over registers, memory, the stack, the port space and the Vector Table, and
taking an exception. An operation that may raise answers `Except Fault`; `conclude` turns what an instruction answers
into the outcome of the step. -/

namespace Sys2Proof.Machine

/-- What a step answers. -/
abbrev Result := Host.Outcome State Fault Refusal

/-! ### Registers -/

/-- A general register of the register file (10_state.md R20). -/
def Regs.get (g : Regs) : Reg → Word
  | .r0 => g.r0 | .r1 => g.r1 | .r2 => g.r2 | .r3 => g.r3
  | .r4 => g.r4 | .r5 => g.r5 | .r6 => g.r6 | .r7 => g.r7
  | .r8 => g.r8 | .r9 => g.r9 | .r10 => g.r10 | .r11 => g.r11
  | .r12 => g.r12 | .r13 => g.r13 | .r14 => g.r14 | .r15 => g.r15

/-- The register file with one register written: all its bits (10_state.md R22). -/
def Regs.set (g : Regs) (r : Reg) (v : Word) : Regs :=
  match r with
  | .r0 => { g with r0 := v } | .r1 => { g with r1 := v } | .r2 => { g with r2 := v } | .r3 => { g with r3 := v }
  | .r4 => { g with r4 := v } | .r5 => { g with r5 := v } | .r6 => { g with r6 := v } | .r7 => { g with r7 := v }
  | .r8 => { g with r8 := v } | .r9 => { g with r9 := v } | .r10 => { g with r10 := v } | .r11 => { g with r11 := v }
  | .r12 => { g with r12 := v } | .r13 => { g with r13 := v } | .r14 => { g with r14 := v }
  | .r15 => { g with r15 := v }

/-- `x[r]` (00_scope.md R12). -/
def State.reg (s : State) (r : Reg) : Word := s.regs.get r

/-- `x[r] <- v` (00_scope.md R12). -/
def State.setReg (s : State) (r : Reg) (v : Word) : State := { s with regs := s.regs.set r v }

/-- `pc <- v` (00_scope.md R12). -/
def State.setPc (s : State) (v : Word) : State := { s with pc := v }

/-- `SP <- v` (10_state.md R26). -/
def State.setSp (s : State) (v : Word) : State := { s with sp := v }

/-- The three flags written together. -/
def State.setFlags (s : State) (zf sf ovf : Bool) : State := { s with zf := zf, sf := sf, ovf := ovf }

/-- `next = pc + 3 + ilen`, modulo 2^64 (30_encoding.md R88, 10_state.md R25). -/
def nextPc (s : State) (ilen : Nat) : Word := s.pc + BitVec.ofNat 64 (3 + ilen)

/-! ### Faults -/

/-- `raise F(info)`: the status becomes faulted and nothing else changes (60_exceptions.md R262). -/
def State.raise (s : State) (f : Fault) : State := { s with status := .faulted f }

/-- The outcome of an instruction: its next state, or the state as it was with the fault it raised (60_exceptions.md
R262, R267). -/
def conclude (s : State) : Except Fault State → Result
  | .ok t => .next t
  | .error f => .next (s.raise f)

/-- In application mode the instruction raises PrivilegeViolation before anything else (45_system.md R240,
60_exceptions.md R261); in supervisor mode it goes on. -/
def supervisorOnly (s : State) (body : Except Fault State) : Except Fault State :=
  match s.mode with
  | .supervisor => body
  | .application => .error (.privilegeViolation s.pc)

/-! ### Memory -/

/-- The address of byte `i` of an access, modulo 2^64 (00_scope.md R13). -/
def byteAddr (addr : Word) (i : Nat) : Word := addr + BitVec.ofNat 64 i

/-- An address is one of those a hole speaks of. -/
def holeCovers (h : Hole) (a : Word) : Bool := decide (h.base ≤ a.toNat) && decide (a.toNat < h.base + h.size)

/-- A hole refuses an access of `n` bytes: if it gives no width, when it covers any of its bytes (60_exceptions.md
R265), otherwise when the width is `n` and it covers the address (20_memory.md R51). -/
def holeRefuses (h : Hole) (kind : AccessKind) (addr : Word) (n : Nat) : Bool :=
  decide (h.kind = kind) &&
    match h.width with
    | none => (List.range n).any fun i => holeCovers h (byteAddr addr i)
    | some w => decide (w = n) && holeCovers h addr

/-- MemMap of an access of `n` bytes: no hole refuses it (20_memory.md R51). -/
def admits (s : State) (kind : AccessKind) (addr : Word) (n : Nat) : Bool :=
  s.cfg.holes.all fun h => !holeRefuses h kind addr n

/-- MemMap of `n` instruction bytes, each of which is an access of one byte (20_memory.md R57). -/
def admitsFetch (s : State) (addr : Word) (n : Nat) : Bool :=
  (List.range n).all fun i => admits s .fetch (byteAddr addr i) 1

/-- The byte of memory at an address: what is listed there, otherwise a free value (log 10). This is the one
definition of what an unlisted address reads as. -/
def readByte (s : State) (a : Word) : Byte :=
  match storeGet s.mem a.toNat with
  | some b => b
  | none => Config.initialByte a.toNat

/-- One byte of memory written. -/
def writeByte (s : State) (a : Word) (b : Byte) : State := { s with mem := storePut s.mem a.toNat b }

/-- The `n` bytes from an address up (00_scope.md R13). -/
def readBytes (s : State) (addr : Word) (n : Nat) : List Byte :=
  (List.range n).map fun i => readByte s (byteAddr addr i)

/-- Bytes written from an address up, the first at the address itself. -/
def writeBytes (s : State) (addr : Word) : List Byte → State
  | [] => s
  | b :: rest => writeBytes (writeByte s addr b) (addr + 1) rest

/-- The value of the `2^size` bytes at an address in the byte order of data (20_memory.md R55), zero above its own
bytes. -/
def loadValue (s : State) (addr : Word) (sz : Size) : Word :=
  bytesToWord (dataOrder s.cfg.dataBigEndian (readBytes s addr sz.bytes))

/-- The state with the low `2^size` bytes of a value at an address in the byte order of data (20_memory.md R56). -/
def storeValue (s : State) (addr : Word) (sz : Size) (v : Word) : State :=
  writeBytes s addr (dataOrder s.cfg.dataBigEndian (wordToBytes sz.bytes v))

/-- MemRead(addr, n) (20_memory.md R55). -/
def memRead (s : State) (addr : Word) (sz : Size) : Except Fault Word :=
  if admits s .read addr sz.bytes then .ok (loadValue s addr sz) else .error (.memoryFault addr .read)

/-- MemWrite(addr, n, trunc v) (20_memory.md R56, 40_operands.md R129). -/
def memWrite (s : State) (addr : Word) (sz : Size) (v : Word) : Except Fault State :=
  if admits s .write addr sz.bytes then .ok (storeValue s addr sz v) else .error (.memoryFault addr .write)

/-! ### The system stack -/

/-- The system word: WB = 8 bytes (43_stack.md R192). -/
def systemWord : Size := .b8

/-- Where the next item of a size is pushed: SP - k, modulo 2^64 (43_stack.md R190). -/
def pushAddr (s : State) (sz : Size) : Word := s.sp - BitVec.ofNat 64 sz.bytes

/-- Push(v, k) (43_stack.md R190): the write, then SP. -/
def push (s : State) (v : Word) (sz : Size) : Except Fault State :=
  match memWrite s (pushAddr s sz) sz v with
  | .ok t => .ok (t.setSp (pushAddr s sz))
  | .error f => .error f

/-- Pop(k) (43_stack.md R191): the value and the state with SP moved. -/
def pop (s : State) (sz : Size) : Except Fault (Word × State) :=
  match memRead s s.sp sz with
  | .ok v => .ok (v, s.setSp (s.sp + BitVec.ofNat 64 sz.bytes))
  | .error f => .error f

/-! ### Taking an exception and returning -/

/-- VT[k] (10_state.md R35). -/
def vectorEntry (s : State) (k : Nat) : Word := tableRead s.vt k

/-- Setting[key] (10_state.md R36). -/
def settingValue (s : State) (key : Word) : Word := tableRead s.settings key.toNat

/-- The function from mode to mode (60_exceptions.md R283). -/
def applyModeMap (m : ModeMap) : Mode → Mode
  | .supervisor => m.fromSupervisor
  | .application => m.fromApplication

/-- Every test of a case holds of the settings. -/
def caseHolds (s : State) (c : ModeCase) : Bool :=
  c.tests.all fun q => decide (settingValue s q.key &&& q.mask = q.value)

/-- The function from mode to mode that applies: the first case that holds, otherwise the last one. -/
def chosenModeMap (s : State) (otherwise : ModeMap) : List ModeCase → ModeMap
  | [] => otherwise
  | c :: rest => if caseHolds s c then c.result else chosenModeMap s otherwise rest

/-- The mode that modeOnEntry or modeOnRTI gives (60_exceptions.md R283, log 17). -/
def modeBy (s : State) (r : ModeRule) : Mode := applyModeMap (chosenModeMap s r.otherwise r.cases) s.mode

/-- Taking a trap through the Vector Table: push the address at which to resume, one system word; enter the handler's
mode; go to VT[k]. What SYS (45_system.md R241) and interrupt entry (60_exceptions.md R272) share. -/
def trapEntry (resume : Word) (k : Nat) (s : State) : Except Fault State :=
  match push s resume systemWord with
  | .ok t => .ok { t with mode := modeBy s s.cfg.modeOnEntry, pc := vectorEntry s k }
  | .error f => .error f

/-- Interrupt entry with index k (60_exceptions.md R272): the trap, resuming at the instruction not yet executed, and
AI cleared. -/
def interruptEntry (k : Nat) (s : State) : Result :=
  conclude s <|
    match trapEntry s.pc k s with
    | .ok t => .ok { t with ai := false }
    | .error f => .error f

/-- The return from an interrupt (45_system.md R243): pop the saved IP, allow interrupts, leave the handler's mode. -/
def trapReturn (s : State) : Except Fault State :=
  match pop s systemWord with
  | .ok (resume, t) => .ok { t with ai := true, mode := modeBy s s.cfg.modeOnRti, pc := resume }
  | .error f => .error f

/-! ### Free draws and oracles -/

/-- The state after one free draw (log 20). -/
def State.drawn (s : State) : State := { s with draws := s.draws + 1 }

/-- The request IrqOracle yields at this step (60_exceptions.md R270): the next one supplied, otherwise a free value
(log 13). -/
def irqRequest (s : State) : Option Nat :=
  match s.irqScript with
  | r :: _ => r
  | [] => Config.irqOracle s.draws s.portTrace

/-- The state after IrqOracle has been sampled: a supplied request is consumed. While AI is false the request has no
effect (60_exceptions.md R271), and the sample counts as no draw (log 20). -/
def sampled (s : State) : State :=
  { s with irqScript := s.irqScript.tail, draws := if s.ai then s.draws + 1 else s.draws }

/-- The value PortRead yields for a port (45_system.md R246), `2^size` bytes: the next one supplied, otherwise a free
value (log 14). -/
def portInput (s : State) (port : Word) (sz : Size) : Word :=
  truncate sz <|
    match s.portScript with
    | v :: _ => v
    | [] => Config.portRead s.draws s.portTrace port sz.bytes

/-- The state after a port read: the transfer is recorded and the input consumed. -/
def portReadState (s : State) (port : Word) (sz : Size) : State :=
  { s with
    portScript := s.portScript.tail
    portTrace  := s.portTrace ++ [.read port sz.bytes (portInput s port sz)]
    draws      := s.draws + 1 }

/-- PortWrite(port, n, trunc v) (45_system.md R249): recorded as an output event, in program order. -/
def portWriteState (s : State) (port : Word) (sz : Size) (v : Word) : State :=
  { s with portTrace := s.portTrace ++ [.write port sz.bytes (truncate sz v)] }

/-! ### Settings -/

/-- One change of SetEffect (45_system.md R252). -/
def applySetting (s : State) : SettingWrite → State
  | .sp v => { s with sp := v }
  | .flag .zf b => { s with zf := b }
  | .flag .sf b => { s with sf := b }
  | .flag .ovf b => { s with ovf := b }
  | .mode m => { s with mode := m }
  | .ai b => { s with ai := b }
  | .vector k v => { s with vt := tableWrite s.vt k v }
  | .setting key value => { s with settings := tableWrite s.settings key.toNat value }

/-- The changes of SetEffect, in order. -/
def applySettings (s : State) (changes : List SettingWrite) : State :=
  changes.foldl applySetting s

end Sys2Proof.Machine
end

