-- ==== Sys2Proof/Machine/Operands.lean ====
section
/-! DEFINITION. Effective addresses and operand values (40_operands.md). -/

namespace Sys2Proof.Machine

/-- `aext(imm)`: an immediate used as an address or a target (40_operands.md R128). -/
def addrImm (s : State) (imm : Imm) : Word := widen s.cfg.addrImmExt imm.size imm.value

/-- The effective address of a memory operand (40_operands.md R121): the index counts operands of the Size code's
width (R122). In the modes without an index the Size code plays no part. -/
def ea (s : State) (sz : Size) : MemOperand → Word
  | .ind b => s.reg b
  | .dir imm => addrImm s imm
  | .indIdx idx b => s.reg b + s.reg idx * BitVec.ofNat 64 sz.bytes
  | .dirIdx idx imm => addrImm s imm + s.reg idx * BitVec.ofNat 64 sz.bytes

/-- The immediate bytes of a memory operand (30_encoding.md R88). -/
def MemOperand.ilen : MemOperand → Nat
  | .ind _ => 0
  | .dir imm => imm.size.bytes
  | .indIdx _ _ => 0
  | .dirIdx _ imm => imm.size.bytes

/-- The immediate bytes of a Source operand (30_encoding.md R88). -/
def Source.ilen : Source → Nat
  | .reg _ => 0
  | .imm imm => imm.size.bytes
  | .mem _ m => MemOperand.ilen m

/-- The immediate bytes of the operand of PUSH, CALL and Jcc (30_encoding.md R88). -/
def UnarySource.ilen : UnarySource → Nat
  | .reg _ => 0
  | .imm imm => imm.size.bytes

/-- MemMap admits the read that the Source operand makes, if it makes one. -/
def sourceAdmitted (s : State) : Source → Bool
  | .reg _ => true
  | .imm _ => true
  | .mem sz m => admits s .read (ea s sz m) sz.bytes

/-- The value of the Source operand: the whole register, the widened immediate, or the widened memory operand
(40_operands.md R123). -/
def sourceValue (s : State) (k : Ext) : Source → Word
  | .reg b => s.reg b
  | .imm imm => widen k imm.size imm.value
  | .mem sz m => widen k sz (loadValue s (ea s sz m) sz)

/-- `SrcVal(k)` (40_operands.md R123): the value, or the MemoryFault of the read. -/
def srcVal (s : State) (k : Ext) : Source → Except Fault Word
  | .reg b => .ok (s.reg b)
  | .imm imm => .ok (widen k imm.size imm.value)
  | .mem sz m =>
    match memRead s (ea s sz m) sz with
    | .ok v => .ok (widen k sz v)
    | .error f => .error f

/-- `UVal` of a data operand: PUSH (40_operands.md R124). -/
def unaryData (s : State) : UnarySource → Word
  | .reg b => s.reg b
  | .imm imm => widen s.cfg.narrowExt imm.size imm.value

/-- `UVal` of an address operand: CALL and Jcc (40_operands.md R124). -/
def unaryAddr (s : State) : UnarySource → Word
  | .reg b => s.reg b
  | .imm imm => addrImm s imm

end Sys2Proof.Machine
end

