-- ==== Sys2Proof/Machine/Flags.lean ====
section
/-! DEFINITION. The results of the nine ALU instructions, the flags, and the conditions of Jcc. -/

namespace Sys2Proof.Machine

/-- The nine instructions whose flags ALU_FLAGS governs (10_state.md R31). -/
inductive AluOp where
  | add | and | div | mul | neg | not | or | sub | xor
  deriving DecidableEq, Repr

/-- `-2^63`, the most negative word read as signed. -/
def mostNegative : Word := 0x8000000000000000

/-- The quotient of DIV (41_arith_logic.md R147): rounded toward zero when signed; DivideError for a zero divisor and
for the signed quotient that does not fit (60_exceptions.md R264). -/
def quotient (signed : Bool) (a b : Word) : Except Fault Word :=
  if b = 0 then .error .divideError
  else if signed then
    if a = mostNegative ∧ b = BitVec.allOnes 64 then .error .divideError
    else .ok (BitVec.ofInt 64 (Int.tdiv a.toInt b.toInt))
  else .ok (BitVec.ofNat 64 (a.toNat / b.toNat))

/-- The result of an ALU operation on Destination `a` and Source `b` (41_arith_logic.md R142 to R153). NEG and NOT
have the one operand `a`. -/
def aluResult (signed : Bool) (op : AluOp) (a b : Word) : Except Fault Word :=
  match op with
  | .add => .ok (a + b)
  | .and => .ok (a &&& b)
  | .div => quotient signed a b
  | .mul => .ok (a * b)
  | .neg => .ok (0 - a)
  | .not => .ok (~~~a)
  | .or => .ok (a ||| b)
  | .sub => .ok (a - b)
  | .xor => .ok (a ^^^ b)

/-- OF of a sum: operands of one sign, the result of the other (10_state.md R29). -/
def addOverflow (a b r : Word) : Bool := (a.msb == b.msb) && (r.msb != a.msb)

/-- OF of a difference: operands of different signs, the result's not the minuend's (10_state.md R29). -/
def subOverflow (a b r : Word) : Bool := (a.msb != b.msb) && (r.msb != a.msb)

/-- OF of MUL under ALU_FLAGS = result: the exact signed product does not fit (41_arith_logic.md R141). -/
def mulOverflow (a b : Word) : Bool :=
  let p := a.toInt * b.toInt
  decide (p < -2 ^ 63) || decide (2 ^ 63 - 1 < p)

/-- OF under ALU_FLAGS = result (41_arith_logic.md R141). -/
def aluOverflow (op : AluOp) (a b r : Word) : Bool :=
  match op with
  | .add => addOverflow a b r
  | .sub => subOverflow a b r
  | .neg => a == mostNegative
  | .mul => mulOverflow a b
  | .div => false
  | .and => false
  | .or => false
  | .xor => false
  | .not => false

/-- The flags after an ALU operation, by ALU_FLAGS (41_arith_logic.md R141): three free bits (log 11), unchanged, or
from the result. -/
def aluFlags (s : State) (op : AluOp) (a b r : Word) : State :=
  match s.cfg.aluFlags with
  | .unspecified =>
    (s.setFlags (Config.freeFlag s.draws .zf) (Config.freeFlag s.draws .sf) (Config.freeFlag s.draws .ovf)).drawn
  | .preserve => s
  | .result => s.setFlags (r == 0) r.msb (aluOverflow op a b r)

/-- The flags of CMP: those of `a - b`, always written (41_arith_logic.md R145). -/
def compareFlags (s : State) (a b : Word) : State :=
  s.setFlags (a - b == 0) (a - b).msb (subOverflow a b (a - b))

/-- `Cond(A)` of the condition table (44_control.md R216); JLE by JLE_INCLUDES_EQUAL (R220, log 12). -/
def condHolds (s : State) : Cond → Bool
  | .ne => !s.zf
  | .e => s.zf
  | .g => !s.sf && !s.zf
  | .ge => !s.sf
  | .l => s.sf && !s.zf
  | .le => s.sf || (s.cfg.jleIncludesEqual && s.zf)
  | .no => !s.ovf
  | .o => s.ovf
  | .always => true

/-- The shape of the two-operand ALU instructions (41_arith_logic.md R140): read both, compute, write the Destination
and the flags, go on. -/
def binaryAlu (op : AluOp) (a : Reg) (src : Source) (s : State) : Result :=
  conclude s <|
    match srcVal s s.cfg.narrowExt src with
    | .error f => .error f
    | .ok y =>
      match aluResult s.cfg.divSigned op (s.reg a) y with
      | .error f => .error f
      | .ok r => .ok (((aluFlags s op (s.reg a) y r).setReg a r).setPc (nextPc s (Source.ilen src)))

/-- The shape of NEG and NOT (41_arith_logic.md R149, R150). -/
def unaryAlu (op : AluOp) (a : Reg) (s : State) : Result :=
  conclude s <|
    match aluResult s.cfg.divSigned op (s.reg a) 0 with
    | .error f => .error f
    | .ok r => .ok (((aluFlags s op (s.reg a) 0 r).setReg a r).setPc (nextPc s 0))

/-- CMP (41_arith_logic.md R145): the flags of the difference; neither operand is modified. -/
def compareOperands (a : Reg) (src : Source) (s : State) : Result :=
  conclude s <|
    match srcVal s s.cfg.narrowExt src with
    | .error f => .error f
    | .ok y => .ok ((compareFlags s (s.reg a) y).setPc (nextPc s (Source.ilen src)))

end Sys2Proof.Machine
end

