-- ==== Sys2Proof/Machine/Arith.lean ====
section
/-! DEFINITION. The arithmetic and compare instructions: ADD, SUB, MUL, DIV, NEG, CMP (41_arith_logic.md). -/

namespace Sys2Proof.Machine

/-- ADD reg, reg (41_arith_logic.md R142). -/
def execAddRegReg (a b : Reg) (s : State) : Result :=
  binaryAlu .add a (.reg b) s

/-- ADD reg, imm (41_arith_logic.md R142). -/
def execAddRegImm (a : Reg) (imm : Imm) (s : State) : Result :=
  binaryAlu .add a (.imm imm) s

/-- ADD reg, [reg] (41_arith_logic.md R142). -/
def execAddRegInd (sz : Size) (a b : Reg) (s : State) : Result :=
  binaryAlu .add a (.mem sz (.ind b)) s

/-- ADD reg, [imm] (41_arith_logic.md R142). -/
def execAddRegDir (sz : Size) (a : Reg) (imm : Imm) (s : State) : Result :=
  binaryAlu .add a (.mem sz (.dir imm)) s

/-- ADD reg, [reg + idx] (41_arith_logic.md R142). -/
def execAddRegIndIdx (idx : Reg) (sz : Size) (a b : Reg) (s : State) : Result :=
  binaryAlu .add a (.mem sz (.indIdx idx b)) s

/-- ADD reg, [imm + idx] (41_arith_logic.md R142). -/
def execAddRegDirIdx (idx : Reg) (sz : Size) (a : Reg) (imm : Imm) (s : State) : Result :=
  binaryAlu .add a (.mem sz (.dirIdx idx imm)) s

/-- SUB reg, reg (41_arith_logic.md R152). -/
def execSubRegReg (a b : Reg) (s : State) : Result :=
  binaryAlu .sub a (.reg b) s

/-- SUB reg, imm (41_arith_logic.md R152). -/
def execSubRegImm (a : Reg) (imm : Imm) (s : State) : Result :=
  binaryAlu .sub a (.imm imm) s

/-- SUB reg, [reg] (41_arith_logic.md R152). -/
def execSubRegInd (sz : Size) (a b : Reg) (s : State) : Result :=
  binaryAlu .sub a (.mem sz (.ind b)) s

/-- SUB reg, [imm] (41_arith_logic.md R152). -/
def execSubRegDir (sz : Size) (a : Reg) (imm : Imm) (s : State) : Result :=
  binaryAlu .sub a (.mem sz (.dir imm)) s

/-- SUB reg, [reg + idx] (41_arith_logic.md R152). -/
def execSubRegIndIdx (idx : Reg) (sz : Size) (a b : Reg) (s : State) : Result :=
  binaryAlu .sub a (.mem sz (.indIdx idx b)) s

/-- SUB reg, [imm + idx] (41_arith_logic.md R152). -/
def execSubRegDirIdx (idx : Reg) (sz : Size) (a : Reg) (imm : Imm) (s : State) : Result :=
  binaryAlu .sub a (.mem sz (.dirIdx idx imm)) s

/-- MUL reg, reg (41_arith_logic.md R148). -/
def execMulRegReg (a b : Reg) (s : State) : Result :=
  binaryAlu .mul a (.reg b) s

/-- MUL reg, imm (41_arith_logic.md R148). -/
def execMulRegImm (a : Reg) (imm : Imm) (s : State) : Result :=
  binaryAlu .mul a (.imm imm) s

/-- MUL reg, [reg] (41_arith_logic.md R148). -/
def execMulRegInd (sz : Size) (a b : Reg) (s : State) : Result :=
  binaryAlu .mul a (.mem sz (.ind b)) s

/-- MUL reg, [imm] (41_arith_logic.md R148). -/
def execMulRegDir (sz : Size) (a : Reg) (imm : Imm) (s : State) : Result :=
  binaryAlu .mul a (.mem sz (.dir imm)) s

/-- MUL reg, [reg + idx] (41_arith_logic.md R148). -/
def execMulRegIndIdx (idx : Reg) (sz : Size) (a b : Reg) (s : State) : Result :=
  binaryAlu .mul a (.mem sz (.indIdx idx b)) s

/-- MUL reg, [imm + idx] (41_arith_logic.md R148). -/
def execMulRegDirIdx (idx : Reg) (sz : Size) (a : Reg) (imm : Imm) (s : State) : Result :=
  binaryAlu .mul a (.mem sz (.dirIdx idx imm)) s

/-- DIV reg, reg (41_arith_logic.md R147). -/
def execDivRegReg (a b : Reg) (s : State) : Result :=
  binaryAlu .div a (.reg b) s

/-- DIV reg, imm (41_arith_logic.md R147). -/
def execDivRegImm (a : Reg) (imm : Imm) (s : State) : Result :=
  binaryAlu .div a (.imm imm) s

/-- DIV reg, [reg] (41_arith_logic.md R147). -/
def execDivRegInd (sz : Size) (a b : Reg) (s : State) : Result :=
  binaryAlu .div a (.mem sz (.ind b)) s

/-- DIV reg, [imm] (41_arith_logic.md R147). -/
def execDivRegDir (sz : Size) (a : Reg) (imm : Imm) (s : State) : Result :=
  binaryAlu .div a (.mem sz (.dir imm)) s

/-- DIV reg, [reg + idx] (41_arith_logic.md R147). -/
def execDivRegIndIdx (idx : Reg) (sz : Size) (a b : Reg) (s : State) : Result :=
  binaryAlu .div a (.mem sz (.indIdx idx b)) s

/-- DIV reg, [imm + idx] (41_arith_logic.md R147). -/
def execDivRegDirIdx (idx : Reg) (sz : Size) (a : Reg) (imm : Imm) (s : State) : Result :=
  binaryAlu .div a (.mem sz (.dirIdx idx imm)) s

/-- CMP reg, reg (41_arith_logic.md R145). -/
def execCmpRegReg (a b : Reg) (s : State) : Result :=
  compareOperands a (.reg b) s

/-- CMP reg, imm (41_arith_logic.md R145). -/
def execCmpRegImm (a : Reg) (imm : Imm) (s : State) : Result :=
  compareOperands a (.imm imm) s

/-- CMP reg, [reg] (41_arith_logic.md R145). -/
def execCmpRegInd (sz : Size) (a b : Reg) (s : State) : Result :=
  compareOperands a (.mem sz (.ind b)) s

/-- CMP reg, [imm] (41_arith_logic.md R145). -/
def execCmpRegDir (sz : Size) (a : Reg) (imm : Imm) (s : State) : Result :=
  compareOperands a (.mem sz (.dir imm)) s

/-- CMP reg, [reg + idx] (41_arith_logic.md R145). -/
def execCmpRegIndIdx (idx : Reg) (sz : Size) (a b : Reg) (s : State) : Result :=
  compareOperands a (.mem sz (.indIdx idx b)) s

/-- CMP reg, [imm + idx] (41_arith_logic.md R145). -/
def execCmpRegDirIdx (idx : Reg) (sz : Size) (a : Reg) (imm : Imm) (s : State) : Result :=
  compareOperands a (.mem sz (.dirIdx idx imm)) s

/-- NEG reg (41_arith_logic.md R149). -/
def execNegReg (a : Reg) (s : State) : Result :=
  unaryAlu .neg a s

end Sys2Proof.Machine
end

