-- ==== Sys2Proof/Machine/Control.lean ====
section
/-! DEFINITION. The control transfer instructions: CALL, Jcc, RET, NOP (44_control.md). -/

namespace Sys2Proof.Machine

/-- CALL (44_control.md R212): push the address of the following instruction, go to the target. -/
def call (target : UnarySource) (s : State) : Result :=
  conclude s <|
    match push s (nextPc s (UnarySource.ilen target)) systemWord with
    | .ok t => .ok (t.setPc (unaryAddr s target))
    | .error f => .error f

/-- Jcc (44_control.md R214): to the target if the condition holds, otherwise on. -/
def jump (c : Cond) (target : UnarySource) (s : State) : Result :=
  conclude s (.ok (s.setPc (if condHolds s c then unaryAddr s target else nextPc s (UnarySource.ilen target))))

/-- CALL reg (44_control.md R212). -/
def execCallReg (b : Reg) (s : State) : Result :=
  call (.reg b) s

/-- CALL imm (44_control.md R212). -/
def execCallImm (imm : Imm) (s : State) : Result :=
  call (.imm imm) s

/-- JNE reg (44_control.md R214, R216, R221). -/
def execJneReg (b : Reg) (s : State) : Result :=
  jump .ne (.reg b) s

/-- JNE imm (44_control.md R214, R216, R221). -/
def execJneImm (imm : Imm) (s : State) : Result :=
  jump .ne (.imm imm) s

/-- JE reg (44_control.md R214, R216, R222). -/
def execJeReg (b : Reg) (s : State) : Result :=
  jump .e (.reg b) s

/-- JE imm (44_control.md R214, R216, R222). -/
def execJeImm (imm : Imm) (s : State) : Result :=
  jump .e (.imm imm) s

/-- JG reg (44_control.md R214, R216, R223). -/
def execJgReg (b : Reg) (s : State) : Result :=
  jump .g (.reg b) s

/-- JG imm (44_control.md R214, R216, R223). -/
def execJgImm (imm : Imm) (s : State) : Result :=
  jump .g (.imm imm) s

/-- JGE reg (44_control.md R214, R216, R224). -/
def execJgeReg (b : Reg) (s : State) : Result :=
  jump .ge (.reg b) s

/-- JGE imm (44_control.md R214, R216, R224). -/
def execJgeImm (imm : Imm) (s : State) : Result :=
  jump .ge (.imm imm) s

/-- JL reg (44_control.md R214, R216, R225). -/
def execJlReg (b : Reg) (s : State) : Result :=
  jump .l (.reg b) s

/-- JL imm (44_control.md R214, R216, R225). -/
def execJlImm (imm : Imm) (s : State) : Result :=
  jump .l (.imm imm) s

/-- JLE reg (44_control.md R214, R216, R220). -/
def execJleReg (b : Reg) (s : State) : Result :=
  jump .le (.reg b) s

/-- JLE imm (44_control.md R214, R216, R220). -/
def execJleImm (imm : Imm) (s : State) : Result :=
  jump .le (.imm imm) s

/-- JNO reg (44_control.md R214, R216, R226). -/
def execJnoReg (b : Reg) (s : State) : Result :=
  jump .no (.reg b) s

/-- JNO imm (44_control.md R214, R216, R226). -/
def execJnoImm (imm : Imm) (s : State) : Result :=
  jump .no (.imm imm) s

/-- JO reg (44_control.md R214, R216, R227). -/
def execJoReg (b : Reg) (s : State) : Result :=
  jump .o (.reg b) s

/-- JO imm (44_control.md R214, R216, R227). -/
def execJoImm (imm : Imm) (s : State) : Result :=
  jump .o (.imm imm) s

/-- JMP reg (44_control.md R214, R216, R228). -/
def execJmpReg (b : Reg) (s : State) : Result :=
  jump .always (.reg b) s

/-- JMP imm (44_control.md R214, R216, R228). -/
def execJmpImm (imm : Imm) (s : State) : Result :=
  jump .always (.imm imm) s

/-- RET (44_control.md R230): pop one system word into pc. -/
def execRet (s : State) : Result :=
  conclude s <|
    match pop s systemWord with
    | .ok (target, t) => .ok (t.setPc target)
    | .error f => .error f

/-- NOP (44_control.md R232): only pc moves. -/
def execNop (s : State) : Result :=
  conclude s (.ok (s.setPc (nextPc s 0)))

end Sys2Proof.Machine
end

