-- ==== Sys2Proof/Machine/LoadStore.lean ====
section
/-! DEFINITION. The load, store and address instructions: LDU, LDR, LEA, STR (42_load_store.md). -/

namespace Sys2Proof.Machine

/-- LDU and LDR (42_load_store.md R170, R171): the widened Source into the Destination. -/
def load (k : Ext) (a : Reg) (src : Source) (s : State) : Result :=
  conclude s <|
    match srcVal s k src with
    | .ok v => .ok ((s.setReg a v).setPc (nextPc s (Source.ilen src)))
    | .error f => .error f

/-- LEA (42_load_store.md R172): the effective address into the Destination; nothing is accessed. -/
def loadAddress (a : Reg) (sz : Size) (m : MemOperand) (s : State) : Result :=
  conclude s (.ok ((s.setReg a (ea s sz m)).setPc (nextPc s (MemOperand.ilen m))))

/-- STR (42_load_store.md R173): the low bytes of the register to memory. -/
def store (a : Reg) (sz : Size) (m : MemOperand) (s : State) : Result :=
  conclude s <|
    match memWrite s (ea s sz m) sz (s.reg a) with
    | .ok t => .ok (t.setPc (nextPc s (MemOperand.ilen m)))
    | .error f => .error f

/-- LDU reg, reg (42_load_store.md R170). -/
def execLduRegReg (a b : Reg) (s : State) : Result :=
  load .zero a (.reg b) s

/-- LDU reg, imm (42_load_store.md R170). -/
def execLduRegImm (a : Reg) (imm : Imm) (s : State) : Result :=
  load .zero a (.imm imm) s

/-- LDU reg, [reg] (42_load_store.md R170). -/
def execLduRegInd (sz : Size) (a b : Reg) (s : State) : Result :=
  load .zero a (.mem sz (.ind b)) s

/-- LDU reg, [imm] (42_load_store.md R170). -/
def execLduRegDir (sz : Size) (a : Reg) (imm : Imm) (s : State) : Result :=
  load .zero a (.mem sz (.dir imm)) s

/-- LDU reg, [reg + idx] (42_load_store.md R170). -/
def execLduRegIndIdx (idx : Reg) (sz : Size) (a b : Reg) (s : State) : Result :=
  load .zero a (.mem sz (.indIdx idx b)) s

/-- LDU reg, [imm + idx] (42_load_store.md R170). -/
def execLduRegDirIdx (idx : Reg) (sz : Size) (a : Reg) (imm : Imm) (s : State) : Result :=
  load .zero a (.mem sz (.dirIdx idx imm)) s

/-- LDR reg, reg (42_load_store.md R171). -/
def execLdrRegReg (a b : Reg) (s : State) : Result :=
  load .sign a (.reg b) s

/-- LDR reg, imm (42_load_store.md R171). -/
def execLdrRegImm (a : Reg) (imm : Imm) (s : State) : Result :=
  load .sign a (.imm imm) s

/-- LDR reg, [reg] (42_load_store.md R171). -/
def execLdrRegInd (sz : Size) (a b : Reg) (s : State) : Result :=
  load .sign a (.mem sz (.ind b)) s

/-- LDR reg, [imm] (42_load_store.md R171). -/
def execLdrRegDir (sz : Size) (a : Reg) (imm : Imm) (s : State) : Result :=
  load .sign a (.mem sz (.dir imm)) s

/-- LDR reg, [reg + idx] (42_load_store.md R171). -/
def execLdrRegIndIdx (idx : Reg) (sz : Size) (a b : Reg) (s : State) : Result :=
  load .sign a (.mem sz (.indIdx idx b)) s

/-- LDR reg, [imm + idx] (42_load_store.md R171). -/
def execLdrRegDirIdx (idx : Reg) (sz : Size) (a : Reg) (imm : Imm) (s : State) : Result :=
  load .sign a (.mem sz (.dirIdx idx imm)) s

/-- STR reg, [reg] (42_load_store.md R173). -/
def execStrRegInd (sz : Size) (a b : Reg) (s : State) : Result :=
  store a sz (.ind b) s

/-- STR reg, [imm] (42_load_store.md R173). -/
def execStrRegDir (sz : Size) (a : Reg) (imm : Imm) (s : State) : Result :=
  store a sz (.dir imm) s

/-- STR reg, [reg + idx] (42_load_store.md R173). -/
def execStrRegIndIdx (idx : Reg) (sz : Size) (a b : Reg) (s : State) : Result :=
  store a sz (.indIdx idx b) s

/-- STR reg, [imm + idx] (42_load_store.md R173). -/
def execStrRegDirIdx (idx : Reg) (sz : Size) (a : Reg) (imm : Imm) (s : State) : Result :=
  store a sz (.dirIdx idx imm) s

/-- LEA reg, [reg] (42_load_store.md R172). The Size code is not used. -/
def execLeaRegInd (a b : Reg) (s : State) : Result :=
  loadAddress a .b1 (.ind b) s

/-- LEA reg, [imm] (42_load_store.md R172). The Size code is not used. -/
def execLeaRegDir (a : Reg) (imm : Imm) (s : State) : Result :=
  loadAddress a .b1 (.dir imm) s

/-- LEA reg, [reg + idx] (42_load_store.md R172). -/
def execLeaRegIndIdx (idx : Reg) (sz : Size) (a b : Reg) (s : State) : Result :=
  loadAddress a sz (.indIdx idx b) s

/-- LEA reg, [imm + idx] (42_load_store.md R172). -/
def execLeaRegDirIdx (idx : Reg) (sz : Size) (a : Reg) (imm : Imm) (s : State) : Result :=
  loadAddress a sz (.dirIdx idx imm) s

end Sys2Proof.Machine
end

