-- ==== Sys2Proof/Machine/Logic.lean ====
section
/-! DEFINITION. The bit-wise instructions: AND, OR, XOR, NOT (41_arith_logic.md). -/

namespace Sys2Proof.Machine

/-- AND reg, reg (41_arith_logic.md R143). -/
def execAndRegReg (a b : Reg) (s : State) : Result :=
  binaryAlu .and a (.reg b) s

/-- AND reg, imm (41_arith_logic.md R143). -/
def execAndRegImm (a : Reg) (imm : Imm) (s : State) : Result :=
  binaryAlu .and a (.imm imm) s

/-- AND reg, [reg] (41_arith_logic.md R143). -/
def execAndRegInd (sz : Size) (a b : Reg) (s : State) : Result :=
  binaryAlu .and a (.mem sz (.ind b)) s

/-- AND reg, [imm] (41_arith_logic.md R143). -/
def execAndRegDir (sz : Size) (a : Reg) (imm : Imm) (s : State) : Result :=
  binaryAlu .and a (.mem sz (.dir imm)) s

/-- AND reg, [reg + idx] (41_arith_logic.md R143). -/
def execAndRegIndIdx (idx : Reg) (sz : Size) (a b : Reg) (s : State) : Result :=
  binaryAlu .and a (.mem sz (.indIdx idx b)) s

/-- AND reg, [imm + idx] (41_arith_logic.md R143). -/
def execAndRegDirIdx (idx : Reg) (sz : Size) (a : Reg) (imm : Imm) (s : State) : Result :=
  binaryAlu .and a (.mem sz (.dirIdx idx imm)) s

/-- OR reg, reg (41_arith_logic.md R151). -/
def execOrRegReg (a b : Reg) (s : State) : Result :=
  binaryAlu .or a (.reg b) s

/-- OR reg, imm (41_arith_logic.md R151). -/
def execOrRegImm (a : Reg) (imm : Imm) (s : State) : Result :=
  binaryAlu .or a (.imm imm) s

/-- OR reg, [reg] (41_arith_logic.md R151). -/
def execOrRegInd (sz : Size) (a b : Reg) (s : State) : Result :=
  binaryAlu .or a (.mem sz (.ind b)) s

/-- OR reg, [imm] (41_arith_logic.md R151). -/
def execOrRegDir (sz : Size) (a : Reg) (imm : Imm) (s : State) : Result :=
  binaryAlu .or a (.mem sz (.dir imm)) s

/-- OR reg, [reg + idx] (41_arith_logic.md R151). -/
def execOrRegIndIdx (idx : Reg) (sz : Size) (a b : Reg) (s : State) : Result :=
  binaryAlu .or a (.mem sz (.indIdx idx b)) s

/-- OR reg, [imm + idx] (41_arith_logic.md R151). -/
def execOrRegDirIdx (idx : Reg) (sz : Size) (a : Reg) (imm : Imm) (s : State) : Result :=
  binaryAlu .or a (.mem sz (.dirIdx idx imm)) s

/-- XOR reg, reg (41_arith_logic.md R153). -/
def execXorRegReg (a b : Reg) (s : State) : Result :=
  binaryAlu .xor a (.reg b) s

/-- XOR reg, imm (41_arith_logic.md R153). -/
def execXorRegImm (a : Reg) (imm : Imm) (s : State) : Result :=
  binaryAlu .xor a (.imm imm) s

/-- XOR reg, [reg] (41_arith_logic.md R153). -/
def execXorRegInd (sz : Size) (a b : Reg) (s : State) : Result :=
  binaryAlu .xor a (.mem sz (.ind b)) s

/-- XOR reg, [imm] (41_arith_logic.md R153). -/
def execXorRegDir (sz : Size) (a : Reg) (imm : Imm) (s : State) : Result :=
  binaryAlu .xor a (.mem sz (.dir imm)) s

/-- XOR reg, [reg + idx] (41_arith_logic.md R153). -/
def execXorRegIndIdx (idx : Reg) (sz : Size) (a b : Reg) (s : State) : Result :=
  binaryAlu .xor a (.mem sz (.indIdx idx b)) s

/-- XOR reg, [imm + idx] (41_arith_logic.md R153). -/
def execXorRegDirIdx (idx : Reg) (sz : Size) (a : Reg) (imm : Imm) (s : State) : Result :=
  binaryAlu .xor a (.mem sz (.dirIdx idx imm)) s

/-- NOT reg (41_arith_logic.md R150). -/
def execNotReg (a : Reg) (s : State) : Result :=
  unaryAlu .not a s

end Sys2Proof.Machine
end

