-- ==== Sys2Proof/Machine/Stack.lean ====
section
/-! DEFINITION. The stack instructions: PUSH, POP, MARK, FREE (43_stack.md). -/

namespace Sys2Proof.Machine

/-- PUSH (43_stack.md R193): the low bytes of the operand onto the stack. -/
def pushOperand (sz : Size) (src : UnarySource) (s : State) : Result :=
  conclude s <|
    match push s (unaryData s src) sz with
    | .ok t => .ok (t.setPc (nextPc s (UnarySource.ilen src)))
    | .error f => .error f

/-- POP (43_stack.md R194): the popped item, widened by NARROW_EXT, into the register. -/
def popRegister (sz : Size) (a : Reg) (s : State) : Result :=
  conclude s <|
    match pop s sz with
    | .ok (v, t) => .ok ((t.setReg a (widen s.cfg.narrowExt sz v)).setPc (nextPc s 0))
    | .error f => .error f

/-- MARK (43_stack.md R195): the whole register is pushed; then it holds the new SP. -/
def markFrame (a : Reg) (s : State) : Result :=
  conclude s <|
    match push s (s.reg a) systemWord with
    | .ok t => .ok ((t.setReg a t.sp).setPc (nextPc s 0))
    | .error f => .error f

/-- FREE (43_stack.md R196): the word at the mark into the register, SP just above it. -/
def freeFrame (a : Reg) (s : State) : Result :=
  conclude s <|
    match memRead s (s.reg a) systemWord with
    | .ok v =>
      .ok (((s.setSp (s.reg a + BitVec.ofNat 64 systemWord.bytes)).setReg a v).setPc (nextPc s 0))
    | .error f => .error f

/-- FREE reg (43_stack.md R196): SP and the register from the mark the register holds. -/
def execFreeReg (a : Reg) (s : State) : Result :=
  freeFrame a s

/-- MARK reg (43_stack.md R195): push the register, then give it SP. -/
def execMarkReg (a : Reg) (s : State) : Result :=
  markFrame a s

/-- POP reg (43_stack.md R194). -/
def execPopReg (sz : Size) (a : Reg) (s : State) : Result :=
  popRegister sz a s

/-- PUSH reg (43_stack.md R193). -/
def execPushReg (sz : Size) (b : Reg) (s : State) : Result :=
  pushOperand sz (.reg b) s

/-- PUSH imm (43_stack.md R193). -/
def execPushImm (sz : Size) (imm : Imm) (s : State) : Result :=
  pushOperand sz (.imm imm) s

end Sys2Proof.Machine
end

