-- ==== Sys2Proof/Machine/Platform.lean ====
section
/-! DEFINITION. The one free value that reads the whole state: SetEffect. -/

namespace Sys2Proof

/-- FREE VALUE (log 15): SetEffect(state, key, value, n) of 45_system.md R252, as the list of changes it makes, in
order. The source assigns no key to any setting, so nothing is known of it but what a `SettingWrite` can change. -/
opaque Config.setEffect : Machine.State → Word → Word → Nat → List SettingWrite

end Sys2Proof
end

