-- ==== Sys2Proof/Machine/System.lean ====
section
/-! DEFINITION. The system instructions: IN, OUT, SET, SYS, RTI (45_system.md). -/

namespace Sys2Proof.Machine

/-- IN (45_system.md R246), privileged: the port number is the Source widened as an address, the data is widened by
NARROW_EXT. -/
def portIn (a : Reg) (sz : Size) (src : Source) (s : State) : Result :=
  conclude s <| supervisorOnly s <|
    match srcVal s s.cfg.addrImmExt src with
    | .ok port =>
      .ok (((portReadState s port sz).setReg a (widen s.cfg.narrowExt sz (portInput s port sz))).setPc
        (nextPc s (Source.ilen src)))
    | .error f => .error f

/-- OUT (45_system.md R249), privileged: the port number is the contents of the register in Operand A. -/
def portOut (a : Reg) (sz : Size) (src : Source) (s : State) : Result :=
  conclude s <| supervisorOnly s <|
    match srcVal s s.cfg.narrowExt src with
    | .ok v => .ok ((portWriteState s (s.reg a) sz v).setPc (nextPc s (Source.ilen src)))
    | .error f => .error f

/-- SetEffect(state, key, v, n) (45_system.md R252): the low `2^size` bytes of the value reach the setting, the upper
bits are dropped (40_operands.md R129, log 40). -/
def setEffect (s : State) (key v : Word) (sz : Size) : List SettingWrite :=
  Config.setEffect s key (truncate sz v) sz.bytes

/-- SET (45_system.md R252), privileged: the changes of SetEffect for the key, the value and the size (logs 15, 40). -/
def setSetting (a : Reg) (sz : Size) (src : Source) (s : State) : Result :=
  conclude s <| supervisorOnly s <|
    match srcVal s s.cfg.narrowExt src with
    | .ok v =>
      .ok ((applySettings s (setEffect s (s.reg a) v sz)).setPc (nextPc s (Source.ilen src)))
    | .error f => .error f

/-- IN reg, reg (45_system.md R246). -/
def execInRegReg (sz : Size) (a b : Reg) (s : State) : Result :=
  portIn a sz (.reg b) s

/-- IN reg, imm (45_system.md R246). -/
def execInRegImm (sz : Size) (a : Reg) (imm : Imm) (s : State) : Result :=
  portIn a sz (.imm imm) s

/-- IN reg, [reg] (45_system.md R246). -/
def execInRegInd (sz : Size) (a b : Reg) (s : State) : Result :=
  portIn a sz (.mem sz (.ind b)) s

/-- IN reg, [imm] (45_system.md R246). -/
def execInRegDir (sz : Size) (a : Reg) (imm : Imm) (s : State) : Result :=
  portIn a sz (.mem sz (.dir imm)) s

/-- IN reg, [reg + idx] (45_system.md R246). -/
def execInRegIndIdx (idx : Reg) (sz : Size) (a b : Reg) (s : State) : Result :=
  portIn a sz (.mem sz (.indIdx idx b)) s

/-- IN reg, [imm + idx] (45_system.md R246). -/
def execInRegDirIdx (idx : Reg) (sz : Size) (a : Reg) (imm : Imm) (s : State) : Result :=
  portIn a sz (.mem sz (.dirIdx idx imm)) s

/-- OUT reg, reg (45_system.md R249). -/
def execOutRegReg (sz : Size) (a b : Reg) (s : State) : Result :=
  portOut a sz (.reg b) s

/-- OUT reg, imm (45_system.md R249). -/
def execOutRegImm (sz : Size) (a : Reg) (imm : Imm) (s : State) : Result :=
  portOut a sz (.imm imm) s

/-- OUT reg, [reg] (45_system.md R249). -/
def execOutRegInd (sz : Size) (a b : Reg) (s : State) : Result :=
  portOut a sz (.mem sz (.ind b)) s

/-- OUT reg, [imm] (45_system.md R249). -/
def execOutRegDir (sz : Size) (a : Reg) (imm : Imm) (s : State) : Result :=
  portOut a sz (.mem sz (.dir imm)) s

/-- OUT reg, [reg + idx] (45_system.md R249). -/
def execOutRegIndIdx (idx : Reg) (sz : Size) (a b : Reg) (s : State) : Result :=
  portOut a sz (.mem sz (.indIdx idx b)) s

/-- OUT reg, [imm + idx] (45_system.md R249). -/
def execOutRegDirIdx (idx : Reg) (sz : Size) (a : Reg) (imm : Imm) (s : State) : Result :=
  portOut a sz (.mem sz (.dirIdx idx imm)) s

/-- SET reg, reg (45_system.md R252). -/
def execSetRegReg (sz : Size) (a b : Reg) (s : State) : Result :=
  setSetting a sz (.reg b) s

/-- SET reg, imm (45_system.md R252). -/
def execSetRegImm (sz : Size) (a : Reg) (imm : Imm) (s : State) : Result :=
  setSetting a sz (.imm imm) s

/-- SET reg, [reg] (45_system.md R252). -/
def execSetRegInd (sz : Size) (a b : Reg) (s : State) : Result :=
  setSetting a sz (.mem sz (.ind b)) s

/-- SET reg, [imm] (45_system.md R252). -/
def execSetRegDir (sz : Size) (a : Reg) (imm : Imm) (s : State) : Result :=
  setSetting a sz (.mem sz (.dir imm)) s

/-- SET reg, [reg + idx] (45_system.md R252). -/
def execSetRegIndIdx (idx : Reg) (sz : Size) (a b : Reg) (s : State) : Result :=
  setSetting a sz (.mem sz (.indIdx idx b)) s

/-- SET reg, [imm + idx] (45_system.md R252). -/
def execSetRegDirIdx (idx : Reg) (sz : Size) (a : Reg) (imm : Imm) (s : State) : Result :=
  setSetting a sz (.mem sz (.dirIdx idx imm)) s

/-- SYS (45_system.md R241, 60_exceptions.md R277): the trap through the entry for applications. AI is left alone. -/
def execSys (s : State) : Result :=
  conclude s (trapEntry (nextPc s 0) s.cfg.applicationIndex s)

/-- RTI (45_system.md R243), privileged: the return from an interrupt. -/
def execRti (s : State) : Result :=
  conclude s (supervisorOnly s (trapReturn s))

end Sys2Proof.Machine
end

