-- ==== Sys2Proof/Machine/Dispatch.lean ====
section
/-! DEFINITION. Every instruction's meaning, one arm for each constructor of Instr. -/

namespace Sys2Proof.Machine

def exec (i : Instr) (s : State) : Host.Outcome State Fault Refusal :=
  match i with
  | .andRegReg a b => Sys2Proof.Machine.execAndRegReg a b s
  | .andRegImm a imm => Sys2Proof.Machine.execAndRegImm a imm s
  | .andRegInd sz a b => Sys2Proof.Machine.execAndRegInd sz a b s
  | .andRegDir sz a imm => Sys2Proof.Machine.execAndRegDir sz a imm s
  | .andRegIndIdx idx sz a b => Sys2Proof.Machine.execAndRegIndIdx idx sz a b s
  | .andRegDirIdx idx sz a imm => Sys2Proof.Machine.execAndRegDirIdx idx sz a imm s
  | .orRegReg a b => Sys2Proof.Machine.execOrRegReg a b s
  | .orRegImm a imm => Sys2Proof.Machine.execOrRegImm a imm s
  | .orRegInd sz a b => Sys2Proof.Machine.execOrRegInd sz a b s
  | .orRegDir sz a imm => Sys2Proof.Machine.execOrRegDir sz a imm s
  | .orRegIndIdx idx sz a b => Sys2Proof.Machine.execOrRegIndIdx idx sz a b s
  | .orRegDirIdx idx sz a imm => Sys2Proof.Machine.execOrRegDirIdx idx sz a imm s
  | .xorRegReg a b => Sys2Proof.Machine.execXorRegReg a b s
  | .xorRegImm a imm => Sys2Proof.Machine.execXorRegImm a imm s
  | .xorRegInd sz a b => Sys2Proof.Machine.execXorRegInd sz a b s
  | .xorRegDir sz a imm => Sys2Proof.Machine.execXorRegDir sz a imm s
  | .xorRegIndIdx idx sz a b => Sys2Proof.Machine.execXorRegIndIdx idx sz a b s
  | .xorRegDirIdx idx sz a imm => Sys2Proof.Machine.execXorRegDirIdx idx sz a imm s
  | .addRegReg a b => Sys2Proof.Machine.execAddRegReg a b s
  | .addRegImm a imm => Sys2Proof.Machine.execAddRegImm a imm s
  | .addRegInd sz a b => Sys2Proof.Machine.execAddRegInd sz a b s
  | .addRegDir sz a imm => Sys2Proof.Machine.execAddRegDir sz a imm s
  | .addRegIndIdx idx sz a b => Sys2Proof.Machine.execAddRegIndIdx idx sz a b s
  | .addRegDirIdx idx sz a imm => Sys2Proof.Machine.execAddRegDirIdx idx sz a imm s
  | .subRegReg a b => Sys2Proof.Machine.execSubRegReg a b s
  | .subRegImm a imm => Sys2Proof.Machine.execSubRegImm a imm s
  | .subRegInd sz a b => Sys2Proof.Machine.execSubRegInd sz a b s
  | .subRegDir sz a imm => Sys2Proof.Machine.execSubRegDir sz a imm s
  | .subRegIndIdx idx sz a b => Sys2Proof.Machine.execSubRegIndIdx idx sz a b s
  | .subRegDirIdx idx sz a imm => Sys2Proof.Machine.execSubRegDirIdx idx sz a imm s
  | .mulRegReg a b => Sys2Proof.Machine.execMulRegReg a b s
  | .mulRegImm a imm => Sys2Proof.Machine.execMulRegImm a imm s
  | .mulRegInd sz a b => Sys2Proof.Machine.execMulRegInd sz a b s
  | .mulRegDir sz a imm => Sys2Proof.Machine.execMulRegDir sz a imm s
  | .mulRegIndIdx idx sz a b => Sys2Proof.Machine.execMulRegIndIdx idx sz a b s
  | .mulRegDirIdx idx sz a imm => Sys2Proof.Machine.execMulRegDirIdx idx sz a imm s
  | .divRegReg a b => Sys2Proof.Machine.execDivRegReg a b s
  | .divRegImm a imm => Sys2Proof.Machine.execDivRegImm a imm s
  | .divRegInd sz a b => Sys2Proof.Machine.execDivRegInd sz a b s
  | .divRegDir sz a imm => Sys2Proof.Machine.execDivRegDir sz a imm s
  | .divRegIndIdx idx sz a b => Sys2Proof.Machine.execDivRegIndIdx idx sz a b s
  | .divRegDirIdx idx sz a imm => Sys2Proof.Machine.execDivRegDirIdx idx sz a imm s
  | .lduRegReg a b => Sys2Proof.Machine.execLduRegReg a b s
  | .lduRegImm a imm => Sys2Proof.Machine.execLduRegImm a imm s
  | .lduRegInd sz a b => Sys2Proof.Machine.execLduRegInd sz a b s
  | .lduRegDir sz a imm => Sys2Proof.Machine.execLduRegDir sz a imm s
  | .lduRegIndIdx idx sz a b => Sys2Proof.Machine.execLduRegIndIdx idx sz a b s
  | .lduRegDirIdx idx sz a imm => Sys2Proof.Machine.execLduRegDirIdx idx sz a imm s
  | .ldrRegReg a b => Sys2Proof.Machine.execLdrRegReg a b s
  | .ldrRegImm a imm => Sys2Proof.Machine.execLdrRegImm a imm s
  | .ldrRegInd sz a b => Sys2Proof.Machine.execLdrRegInd sz a b s
  | .ldrRegDir sz a imm => Sys2Proof.Machine.execLdrRegDir sz a imm s
  | .ldrRegIndIdx idx sz a b => Sys2Proof.Machine.execLdrRegIndIdx idx sz a b s
  | .ldrRegDirIdx idx sz a imm => Sys2Proof.Machine.execLdrRegDirIdx idx sz a imm s
  | .cmpRegReg a b => Sys2Proof.Machine.execCmpRegReg a b s
  | .cmpRegImm a imm => Sys2Proof.Machine.execCmpRegImm a imm s
  | .cmpRegInd sz a b => Sys2Proof.Machine.execCmpRegInd sz a b s
  | .cmpRegDir sz a imm => Sys2Proof.Machine.execCmpRegDir sz a imm s
  | .cmpRegIndIdx idx sz a b => Sys2Proof.Machine.execCmpRegIndIdx idx sz a b s
  | .cmpRegDirIdx idx sz a imm => Sys2Proof.Machine.execCmpRegDirIdx idx sz a imm s
  | .inRegReg sz a b => Sys2Proof.Machine.execInRegReg sz a b s
  | .inRegImm sz a imm => Sys2Proof.Machine.execInRegImm sz a imm s
  | .inRegInd sz a b => Sys2Proof.Machine.execInRegInd sz a b s
  | .inRegDir sz a imm => Sys2Proof.Machine.execInRegDir sz a imm s
  | .inRegIndIdx idx sz a b => Sys2Proof.Machine.execInRegIndIdx idx sz a b s
  | .inRegDirIdx idx sz a imm => Sys2Proof.Machine.execInRegDirIdx idx sz a imm s
  | .outRegReg sz a b => Sys2Proof.Machine.execOutRegReg sz a b s
  | .outRegImm sz a imm => Sys2Proof.Machine.execOutRegImm sz a imm s
  | .outRegInd sz a b => Sys2Proof.Machine.execOutRegInd sz a b s
  | .outRegDir sz a imm => Sys2Proof.Machine.execOutRegDir sz a imm s
  | .outRegIndIdx idx sz a b => Sys2Proof.Machine.execOutRegIndIdx idx sz a b s
  | .outRegDirIdx idx sz a imm => Sys2Proof.Machine.execOutRegDirIdx idx sz a imm s
  | .setRegReg sz a b => Sys2Proof.Machine.execSetRegReg sz a b s
  | .setRegImm sz a imm => Sys2Proof.Machine.execSetRegImm sz a imm s
  | .setRegInd sz a b => Sys2Proof.Machine.execSetRegInd sz a b s
  | .setRegDir sz a imm => Sys2Proof.Machine.execSetRegDir sz a imm s
  | .setRegIndIdx idx sz a b => Sys2Proof.Machine.execSetRegIndIdx idx sz a b s
  | .setRegDirIdx idx sz a imm => Sys2Proof.Machine.execSetRegDirIdx idx sz a imm s
  | .strRegInd sz a b => Sys2Proof.Machine.execStrRegInd sz a b s
  | .strRegDir sz a imm => Sys2Proof.Machine.execStrRegDir sz a imm s
  | .strRegIndIdx idx sz a b => Sys2Proof.Machine.execStrRegIndIdx idx sz a b s
  | .strRegDirIdx idx sz a imm => Sys2Proof.Machine.execStrRegDirIdx idx sz a imm s
  | .leaRegInd a b => Sys2Proof.Machine.execLeaRegInd a b s
  | .leaRegDir a imm => Sys2Proof.Machine.execLeaRegDir a imm s
  | .leaRegIndIdx idx sz a b => Sys2Proof.Machine.execLeaRegIndIdx idx sz a b s
  | .leaRegDirIdx idx sz a imm => Sys2Proof.Machine.execLeaRegDirIdx idx sz a imm s
  | .notReg a => Sys2Proof.Machine.execNotReg a s
  | .negReg a => Sys2Proof.Machine.execNegReg a s
  | .freeReg a => Sys2Proof.Machine.execFreeReg a s
  | .markReg a => Sys2Proof.Machine.execMarkReg a s
  | .popReg sz a => Sys2Proof.Machine.execPopReg sz a s
  | .pushReg sz b => Sys2Proof.Machine.execPushReg sz b s
  | .pushImm sz imm => Sys2Proof.Machine.execPushImm sz imm s
  | .callReg b => Sys2Proof.Machine.execCallReg b s
  | .callImm imm => Sys2Proof.Machine.execCallImm imm s
  | .jneReg b => Sys2Proof.Machine.execJneReg b s
  | .jneImm imm => Sys2Proof.Machine.execJneImm imm s
  | .jeReg b => Sys2Proof.Machine.execJeReg b s
  | .jeImm imm => Sys2Proof.Machine.execJeImm imm s
  | .jgReg b => Sys2Proof.Machine.execJgReg b s
  | .jgImm imm => Sys2Proof.Machine.execJgImm imm s
  | .jgeReg b => Sys2Proof.Machine.execJgeReg b s
  | .jgeImm imm => Sys2Proof.Machine.execJgeImm imm s
  | .jlReg b => Sys2Proof.Machine.execJlReg b s
  | .jlImm imm => Sys2Proof.Machine.execJlImm imm s
  | .jleReg b => Sys2Proof.Machine.execJleReg b s
  | .jleImm imm => Sys2Proof.Machine.execJleImm imm s
  | .jnoReg b => Sys2Proof.Machine.execJnoReg b s
  | .jnoImm imm => Sys2Proof.Machine.execJnoImm imm s
  | .joReg b => Sys2Proof.Machine.execJoReg b s
  | .joImm imm => Sys2Proof.Machine.execJoImm imm s
  | .jmpReg b => Sys2Proof.Machine.execJmpReg b s
  | .jmpImm imm => Sys2Proof.Machine.execJmpImm imm s
  | .ret => Sys2Proof.Machine.execRet s
  | .sys => Sys2Proof.Machine.execSys s
  | .rti => Sys2Proof.Machine.execRti s
  | .nop => Sys2Proof.Machine.execNop s

end Sys2Proof.Machine
end

