-- ==== Sys2Proof/WellFormed.lean ====
section
/-! DEFINITION. Which instruction terms an encoding can hold.

Registers, Size codes and conditions are legal by their types (R20, R86, R89, R105). What is left to check is that the
raw value of an immediate is a value of its own bytes (30_encoding.md R87, R88). -/

namespace Sys2Proof

/-- The raw value of the immediate is a value of `2^B` bytes (30_encoding.md R88). -/
def Imm.fits (imm : Imm) : Bool :=
  decide (imm.value.toNat < 2 ^ (8 * imm.size.bytes))

/-- The immediate of an instruction, in the modes that have one (30_encoding.md R83, R88). -/
def Instr.imm? : Instr → Option Imm
  | .andRegReg _ _ => none
  | .andRegImm _ imm => some imm
  | .andRegInd _ _ _ => none
  | .andRegDir _ _ imm => some imm
  | .andRegIndIdx _ _ _ _ => none
  | .andRegDirIdx _ _ _ imm => some imm
  | .orRegReg _ _ => none
  | .orRegImm _ imm => some imm
  | .orRegInd _ _ _ => none
  | .orRegDir _ _ imm => some imm
  | .orRegIndIdx _ _ _ _ => none
  | .orRegDirIdx _ _ _ imm => some imm
  | .xorRegReg _ _ => none
  | .xorRegImm _ imm => some imm
  | .xorRegInd _ _ _ => none
  | .xorRegDir _ _ imm => some imm
  | .xorRegIndIdx _ _ _ _ => none
  | .xorRegDirIdx _ _ _ imm => some imm
  | .addRegReg _ _ => none
  | .addRegImm _ imm => some imm
  | .addRegInd _ _ _ => none
  | .addRegDir _ _ imm => some imm
  | .addRegIndIdx _ _ _ _ => none
  | .addRegDirIdx _ _ _ imm => some imm
  | .subRegReg _ _ => none
  | .subRegImm _ imm => some imm
  | .subRegInd _ _ _ => none
  | .subRegDir _ _ imm => some imm
  | .subRegIndIdx _ _ _ _ => none
  | .subRegDirIdx _ _ _ imm => some imm
  | .mulRegReg _ _ => none
  | .mulRegImm _ imm => some imm
  | .mulRegInd _ _ _ => none
  | .mulRegDir _ _ imm => some imm
  | .mulRegIndIdx _ _ _ _ => none
  | .mulRegDirIdx _ _ _ imm => some imm
  | .divRegReg _ _ => none
  | .divRegImm _ imm => some imm
  | .divRegInd _ _ _ => none
  | .divRegDir _ _ imm => some imm
  | .divRegIndIdx _ _ _ _ => none
  | .divRegDirIdx _ _ _ imm => some imm
  | .lduRegReg _ _ => none
  | .lduRegImm _ imm => some imm
  | .lduRegInd _ _ _ => none
  | .lduRegDir _ _ imm => some imm
  | .lduRegIndIdx _ _ _ _ => none
  | .lduRegDirIdx _ _ _ imm => some imm
  | .ldrRegReg _ _ => none
  | .ldrRegImm _ imm => some imm
  | .ldrRegInd _ _ _ => none
  | .ldrRegDir _ _ imm => some imm
  | .ldrRegIndIdx _ _ _ _ => none
  | .ldrRegDirIdx _ _ _ imm => some imm
  | .cmpRegReg _ _ => none
  | .cmpRegImm _ imm => some imm
  | .cmpRegInd _ _ _ => none
  | .cmpRegDir _ _ imm => some imm
  | .cmpRegIndIdx _ _ _ _ => none
  | .cmpRegDirIdx _ _ _ imm => some imm
  | .inRegReg _ _ _ => none
  | .inRegImm _ _ imm => some imm
  | .inRegInd _ _ _ => none
  | .inRegDir _ _ imm => some imm
  | .inRegIndIdx _ _ _ _ => none
  | .inRegDirIdx _ _ _ imm => some imm
  | .outRegReg _ _ _ => none
  | .outRegImm _ _ imm => some imm
  | .outRegInd _ _ _ => none
  | .outRegDir _ _ imm => some imm
  | .outRegIndIdx _ _ _ _ => none
  | .outRegDirIdx _ _ _ imm => some imm
  | .setRegReg _ _ _ => none
  | .setRegImm _ _ imm => some imm
  | .setRegInd _ _ _ => none
  | .setRegDir _ _ imm => some imm
  | .setRegIndIdx _ _ _ _ => none
  | .setRegDirIdx _ _ _ imm => some imm
  | .strRegInd _ _ _ => none
  | .strRegDir _ _ imm => some imm
  | .strRegIndIdx _ _ _ _ => none
  | .strRegDirIdx _ _ _ imm => some imm
  | .leaRegInd _ _ => none
  | .leaRegDir _ imm => some imm
  | .leaRegIndIdx _ _ _ _ => none
  | .leaRegDirIdx _ _ _ imm => some imm
  | .notReg _ => none
  | .negReg _ => none
  | .freeReg _ => none
  | .markReg _ => none
  | .popReg _ _ => none
  | .pushReg _ _ => none
  | .pushImm _ imm => some imm
  | .callReg _ => none
  | .callImm imm => some imm
  | .jneReg _ => none
  | .jneImm imm => some imm
  | .jeReg _ => none
  | .jeImm imm => some imm
  | .jgReg _ => none
  | .jgImm imm => some imm
  | .jgeReg _ => none
  | .jgeImm imm => some imm
  | .jlReg _ => none
  | .jlImm imm => some imm
  | .jleReg _ => none
  | .jleImm imm => some imm
  | .jnoReg _ => none
  | .jnoImm imm => some imm
  | .joReg _ => none
  | .joImm imm => some imm
  | .jmpReg _ => none
  | .jmpImm imm => some imm
  | .ret => none
  | .sys => none
  | .rti => none
  | .nop => none

/-- Well-formed: the immediate, where there is one, fits its bytes. -/
def Instr.wf (i : Instr) : Bool :=
  match i.imm? with
  | some imm => imm.fits
  | none => true

/-- `ilen`: the immediate's length in bytes, 0 where there is none (30_encoding.md R88). -/
def Instr.ilen (i : Instr) : Nat :=
  match i.imm? with
  | some imm => imm.size.bytes
  | none => 0

/-- The four privileged instructions: IN, OUT, SET and RTI (45_system.md R240, R255). -/
def Instr.privileged : Instr → Bool
  | .andRegReg _ _ => false
  | .andRegImm _ _ => false
  | .andRegInd _ _ _ => false
  | .andRegDir _ _ _ => false
  | .andRegIndIdx _ _ _ _ => false
  | .andRegDirIdx _ _ _ _ => false
  | .orRegReg _ _ => false
  | .orRegImm _ _ => false
  | .orRegInd _ _ _ => false
  | .orRegDir _ _ _ => false
  | .orRegIndIdx _ _ _ _ => false
  | .orRegDirIdx _ _ _ _ => false
  | .xorRegReg _ _ => false
  | .xorRegImm _ _ => false
  | .xorRegInd _ _ _ => false
  | .xorRegDir _ _ _ => false
  | .xorRegIndIdx _ _ _ _ => false
  | .xorRegDirIdx _ _ _ _ => false
  | .addRegReg _ _ => false
  | .addRegImm _ _ => false
  | .addRegInd _ _ _ => false
  | .addRegDir _ _ _ => false
  | .addRegIndIdx _ _ _ _ => false
  | .addRegDirIdx _ _ _ _ => false
  | .subRegReg _ _ => false
  | .subRegImm _ _ => false
  | .subRegInd _ _ _ => false
  | .subRegDir _ _ _ => false
  | .subRegIndIdx _ _ _ _ => false
  | .subRegDirIdx _ _ _ _ => false
  | .mulRegReg _ _ => false
  | .mulRegImm _ _ => false
  | .mulRegInd _ _ _ => false
  | .mulRegDir _ _ _ => false
  | .mulRegIndIdx _ _ _ _ => false
  | .mulRegDirIdx _ _ _ _ => false
  | .divRegReg _ _ => false
  | .divRegImm _ _ => false
  | .divRegInd _ _ _ => false
  | .divRegDir _ _ _ => false
  | .divRegIndIdx _ _ _ _ => false
  | .divRegDirIdx _ _ _ _ => false
  | .lduRegReg _ _ => false
  | .lduRegImm _ _ => false
  | .lduRegInd _ _ _ => false
  | .lduRegDir _ _ _ => false
  | .lduRegIndIdx _ _ _ _ => false
  | .lduRegDirIdx _ _ _ _ => false
  | .ldrRegReg _ _ => false
  | .ldrRegImm _ _ => false
  | .ldrRegInd _ _ _ => false
  | .ldrRegDir _ _ _ => false
  | .ldrRegIndIdx _ _ _ _ => false
  | .ldrRegDirIdx _ _ _ _ => false
  | .cmpRegReg _ _ => false
  | .cmpRegImm _ _ => false
  | .cmpRegInd _ _ _ => false
  | .cmpRegDir _ _ _ => false
  | .cmpRegIndIdx _ _ _ _ => false
  | .cmpRegDirIdx _ _ _ _ => false
  | .inRegReg _ _ _ => true
  | .inRegImm _ _ _ => true
  | .inRegInd _ _ _ => true
  | .inRegDir _ _ _ => true
  | .inRegIndIdx _ _ _ _ => true
  | .inRegDirIdx _ _ _ _ => true
  | .outRegReg _ _ _ => true
  | .outRegImm _ _ _ => true
  | .outRegInd _ _ _ => true
  | .outRegDir _ _ _ => true
  | .outRegIndIdx _ _ _ _ => true
  | .outRegDirIdx _ _ _ _ => true
  | .setRegReg _ _ _ => true
  | .setRegImm _ _ _ => true
  | .setRegInd _ _ _ => true
  | .setRegDir _ _ _ => true
  | .setRegIndIdx _ _ _ _ => true
  | .setRegDirIdx _ _ _ _ => true
  | .strRegInd _ _ _ => false
  | .strRegDir _ _ _ => false
  | .strRegIndIdx _ _ _ _ => false
  | .strRegDirIdx _ _ _ _ => false
  | .leaRegInd _ _ => false
  | .leaRegDir _ _ => false
  | .leaRegIndIdx _ _ _ _ => false
  | .leaRegDirIdx _ _ _ _ => false
  | .notReg _ => false
  | .negReg _ => false
  | .freeReg _ => false
  | .markReg _ => false
  | .popReg _ _ => false
  | .pushReg _ _ => false
  | .pushImm _ _ => false
  | .callReg _ => false
  | .callImm _ => false
  | .jneReg _ => false
  | .jneImm _ => false
  | .jeReg _ => false
  | .jeImm _ => false
  | .jgReg _ => false
  | .jgImm _ => false
  | .jgeReg _ => false
  | .jgeImm _ => false
  | .jlReg _ => false
  | .jlImm _ => false
  | .jleReg _ => false
  | .jleImm _ => false
  | .jnoReg _ => false
  | .jnoImm _ => false
  | .joReg _ => false
  | .joImm _ => false
  | .jmpReg _ => false
  | .jmpImm _ => false
  | .ret => false
  | .sys => false
  | .rti => true
  | .nop => false

end Sys2Proof
end

