-- ==== Sys2Proof/Decode.lean ====
section
/-! DEFINITION. The decoder and the encoder (30_encoding.md).

`decodeBase` is R97: a total function from the three base bytes to an instruction, one that still needs its
immediate, or a rejection by name. `decode` reads an instruction from a string of bytes, total on any string. -/

namespace Sys2Proof

/-- Why a string of bytes is no instruction. Every reason but `truncated` is IllegalInstruction (60_exceptions.md
R260); `truncated` says only that the string given to `decode` ended early. -/
inductive DecodeError where
  /-- The first byte is an "invalid" cell of the opcode map (30_encoding.md R100). -/
  | invalidMode
  /-- The first byte is not assigned (30_encoding.md R101). -/
  | unassigned
  /-- A Jcc condition code 8 to E (30_encoding.md R105). -/
  | reservedCondition
  /-- An immediate longer than a word (30_encoding.md R89). -/
  | immediateTooWide
  /-- A Size code wider than a word where Size is used (30_encoding.md R86). -/
  | sizeTooWide
  /-- A non-zero unused field under STRICT_RESERVED (30_encoding.md R104). -/
  | unusedField
  /-- The string of bytes ends before the instruction does. -/
  | truncated
  deriving DecidableEq, Repr

/-- The register a 4-bit number names: every number names one (10_state.md R20). -/
def Reg.ofNibble (n : Nibble) : Reg :=
  match n.toNat with
  | 0 => .r0 | 1 => .r1 | 2 => .r2 | 3 => .r3 | 4 => .r4 | 5 => .r5 | 6 => .r6 | 7 => .r7
  | 8 => .r8 | 9 => .r9 | 10 => .r10 | 11 => .r11 | 12 => .r12 | 13 => .r13 | 14 => .r14 | _ => .r15

/-- The number of a register (10_state.md R20). -/
def Reg.toNibble : Reg → Nibble
  | .r0 => 0 | .r1 => 1 | .r2 => 2 | .r3 => 3 | .r4 => 4 | .r5 => 5 | .r6 => 6 | .r7 => 7
  | .r8 => 8 | .r9 => 9 | .r10 => 10 | .r11 => 11 | .r12 => 12 | .r13 => 13 | .r14 => 14 | .r15 => 15

/-- A legal Size code: `2^code` bytes are at most a word (30_encoding.md R85, R86, R89). -/
def Size.ofNibble? (n : Nibble) : Option Size :=
  match n.toNat with
  | 0 => some .b1 | 1 => some .b2 | 2 => some .b4 | 3 => some .b8 | _ => none

/-- The Size code of a width (30_encoding.md R85). -/
def Size.toNibble : Size → Nibble
  | .b1 => 0 | .b2 => 1 | .b4 => 2 | .b8 => 3

/-- The condition of a condition code (44_control.md R216). -/
def Cond.ofNibble? (n : Nibble) : Option Cond :=
  match n.toNat with
  | 0 => some .ne | 1 => some .e | 2 => some .g | 3 => some .ge | 4 => some .l | 5 => some .le
  | 6 => some .no | 7 => some .o | 15 => some .always | _ => none

/-- The condition code of a condition (44_control.md R216). -/
def Cond.toNibble : Cond → Nibble
  | .ne => 0 | .e => 1 | .g => 2 | .ge => 3 | .l => 4 | .le => 5 | .no => 6 | .o => 7 | .always => 15

/-- The high nibble of a byte, bits 7:4 (00_scope.md R10). -/
def highNibble (b : Byte) : Nibble := (b >>> 4).setWidth 4

/-- The low nibble of a byte, bits 3:0 (00_scope.md R10). -/
def lowNibble (b : Byte) : Nibble := b.setWidth 4

/-- A byte from its two nibbles. -/
def byteOf (hi lo : Nibble) : Byte := hi.setWidth 8 <<< 4 ||| lo.setWidth 8

/-- The second and third byte of the base, in nibbles (30_encoding.md R81), and the parameter STRICT_RESERVED. -/
structure Fields where
  strict : Bool
  idx    : Nibble
  size   : Nibble
  a      : Nibble
  b      : Nibble

/-- What the base alone says: a whole instruction, or one whose immediate of a given size follows (R88). -/
inductive Header where
  | plain   (i : Instr)
  | withImm (sz : Size) (mk : Imm → Instr)

/-- `ilen`, the number of immediate bytes that follow the base (30_encoding.md R88). -/
def Header.ilen : Header → Nat
  | .plain _ => 0
  | .withImm sz _ => sz.bytes

/-- The instruction, given the immediate's bytes, most significant first (20_memory.md R52, R57). -/
def Header.build (h : Header) (immBytes : List Byte) : Instr :=
  match h with
  | .plain i => i
  | .withImm sz mk => mk { size := sz, value := Machine.bytesToWord immBytes }

/-! ### Unused fields, Size codes and immediate size codes -/

/-- Under STRICT_RESERVED a non-zero unused field is illegal; otherwise it is ignored (30_encoding.md R104). -/
def Fields.unused (f : Fields) (fields : List Nibble) (h : Except DecodeError Header) : Except DecodeError Header :=
  if f.strict && fields.any (fun n => n != 0) then .error .unusedField else h

/-- The Size code, where the instruction uses it (30_encoding.md R86). -/
def Fields.sized (f : Fields) (k : Size → Except DecodeError Header) : Except DecodeError Header :=
  match Size.ofNibble? f.size with
  | some sz => k sz
  | none => .error .sizeTooWide

/-- The immediate whose size code stands in Operand B (30_encoding.md R87, R89). -/
def Fields.immediate (f : Fields) (mk : Imm → Instr) : Except DecodeError Header :=
  match Size.ofNibble? f.b with
  | some sz => .ok (.withImm sz mk)
  | none => .error .immediateTooWide

/-! ### The formats of R91 to R94, by the fields they use -/

/-- Operand A and Operand B registers; index and Size unused. -/
def Fields.regReg (f : Fields) (mk : Reg → Reg → Instr) : Except DecodeError Header :=
  f.unused [f.idx, f.size] (.ok (.plain (mk (Reg.ofNibble f.a) (Reg.ofNibble f.b))))

/-- Operand A a register, Operand B an immediate size code; index and Size unused. -/
def Fields.regImm (f : Fields) (mk : Reg → Imm → Instr) : Except DecodeError Header :=
  f.unused [f.idx, f.size] (f.immediate (mk (Reg.ofNibble f.a)))

/-- Size code, Operand A and Operand B registers; index unused. -/
def Fields.regInd (f : Fields) (mk : Size → Reg → Reg → Instr) : Except DecodeError Header :=
  f.unused [f.idx] (f.sized fun sz => .ok (.plain (mk sz (Reg.ofNibble f.a) (Reg.ofNibble f.b))))

/-- Size code, Operand A a register, Operand B an immediate size code; index unused. -/
def Fields.regDir (f : Fields) (mk : Size → Reg → Imm → Instr) : Except DecodeError Header :=
  f.unused [f.idx] (f.sized fun sz => f.immediate (mk sz (Reg.ofNibble f.a)))

/-- Index register, Size code, Operand A and Operand B registers. -/
def Fields.regIndIdx (f : Fields) (mk : Reg → Size → Reg → Reg → Instr) : Except DecodeError Header :=
  f.sized fun sz => .ok (.plain (mk (Reg.ofNibble f.idx) sz (Reg.ofNibble f.a) (Reg.ofNibble f.b)))

/-- Index register, Size code, Operand A a register, Operand B an immediate size code. -/
def Fields.regDirIdx (f : Fields) (mk : Reg → Size → Reg → Imm → Instr) : Except DecodeError Header :=
  f.sized fun sz => f.immediate (mk (Reg.ofNibble f.idx) sz (Reg.ofNibble f.a))

/-- Format UNA without Size: the register in Operand A (30_encoding.md R92). -/
def Fields.una (f : Fields) (mk : Reg → Instr) : Except DecodeError Header :=
  f.unused [f.idx, f.size, f.b] (.ok (.plain (mk (Reg.ofNibble f.a))))

/-- Format UNA with Size: POP (30_encoding.md R92). -/
def Fields.unaSized (f : Fields) (mk : Size → Reg → Instr) : Except DecodeError Header :=
  f.unused [f.idx, f.b] (f.sized fun sz => .ok (.plain (mk sz (Reg.ofNibble f.a))))

/-- Format UNB with a register in Operand B and no Size: CALL reg (30_encoding.md R92). -/
def Fields.unb (f : Fields) (mk : Reg → Instr) : Except DecodeError Header :=
  f.unused [f.idx, f.size, f.a] (.ok (.plain (mk (Reg.ofNibble f.b))))

/-- Format UNB with an immediate and no Size: CALL imm (30_encoding.md R92). -/
def Fields.unbImm (f : Fields) (mk : Imm → Instr) : Except DecodeError Header :=
  f.unused [f.idx, f.size, f.a] (f.immediate mk)

/-- Format UNB with a register in Operand B and a Size code: PUSH reg (30_encoding.md R92). -/
def Fields.unbSized (f : Fields) (mk : Size → Reg → Instr) : Except DecodeError Header :=
  f.unused [f.idx, f.a] (f.sized fun sz => .ok (.plain (mk sz (Reg.ofNibble f.b))))

/-- Format UNB with an immediate and a Size code: PUSH imm (30_encoding.md R92). -/
def Fields.unbSizedImm (f : Fields) (mk : Size → Imm → Instr) : Except DecodeError Header :=
  f.unused [f.idx, f.a] (f.sized fun sz => f.immediate (mk sz))

/-- Format NONE: bytes 1 and 2 unused (30_encoding.md R94). -/
def Fields.bare (f : Fields) (i : Instr) : Except DecodeError Header :=
  f.unused [f.idx, f.size, f.a, f.b] (.ok (.plain i))

/-- The Jcc instruction of a condition with a register target (44_control.md R216). -/
def jccReg : Cond → Reg → Instr
  | .ne, b => .jneReg b
  | .e, b => .jeReg b
  | .g, b => .jgReg b
  | .ge, b => .jgeReg b
  | .l, b => .jlReg b
  | .le, b => .jleReg b
  | .no, b => .jnoReg b
  | .o, b => .joReg b
  | .always, b => .jmpReg b

/-- The Jcc instruction of a condition with an immediate target (44_control.md R216). -/
def jccImm : Cond → Imm → Instr
  | .ne, imm => .jneImm imm
  | .e, imm => .jeImm imm
  | .g, imm => .jgImm imm
  | .ge, imm => .jgeImm imm
  | .l, imm => .jlImm imm
  | .le, imm => .jleImm imm
  | .no, imm => .jnoImm imm
  | .o, imm => .joImm imm
  | .always, imm => .jmpImm imm

/-- Format JCC with a register target: the condition in Operand A (30_encoding.md R92, R105). -/
def Fields.jccReg (f : Fields) : Except DecodeError Header :=
  match Cond.ofNibble? f.a with
  | some c => f.unused [f.idx, f.size] (.ok (.plain (Sys2Proof.jccReg c (Reg.ofNibble f.b))))
  | none => .error .reservedCondition

/-- Format JCC with an immediate target: the condition in Operand A (30_encoding.md R92, R105). -/
def Fields.jccImm (f : Fields) : Except DecodeError Header :=
  match Cond.ofNibble? f.a with
  | some c => f.unused [f.idx, f.size] (f.immediate (Sys2Proof.jccImm c))
  | none => .error .reservedCondition

/-! ### The opcode map (R95), a definition for each high nibble of the first byte; `lo` is the low nibble -/

/-- First bytes 00 to 0F (30_encoding.md R95, R96). -/
def decodeRow0 (lo : Nat) (f : Fields) : Except DecodeError Header :=
  match lo with
  | 2 => f.regReg .andRegReg
  | 3 => f.regImm .andRegImm
  | 4 => f.regInd .andRegInd
  | 5 => f.regDir .andRegDir
  | 6 => f.regIndIdx .andRegIndIdx
  | 7 => f.regDirIdx .andRegDirIdx
  | 8 => f.una .notReg
  | _ => .error .invalidMode

/-- First bytes 10 to 1F (30_encoding.md R95, R96). -/
def decodeRow1 (lo : Nat) (f : Fields) : Except DecodeError Header :=
  match lo with
  | 2 => f.regReg .orRegReg
  | 3 => f.regImm .orRegImm
  | 4 => f.regInd .orRegInd
  | 5 => f.regDir .orRegDir
  | 6 => f.regIndIdx .orRegIndIdx
  | 7 => f.regDirIdx .orRegDirIdx
  | 8 => f.una .negReg
  | _ => .error .invalidMode

/-- First bytes 20 to 2F (30_encoding.md R95, R96). -/
def decodeRow2 (lo : Nat) (f : Fields) : Except DecodeError Header :=
  match lo with
  | 2 => f.regReg .xorRegReg
  | 3 => f.regImm .xorRegImm
  | 4 => f.regInd .xorRegInd
  | 5 => f.regDir .xorRegDir
  | 6 => f.regIndIdx .xorRegIndIdx
  | 7 => f.regDirIdx .xorRegDirIdx
  | 8 => f.una .freeReg
  | _ => .error .invalidMode

/-- First bytes 30 to 3F (30_encoding.md R95, R96). -/
def decodeRow3 (lo : Nat) (f : Fields) : Except DecodeError Header :=
  match lo with
  | 2 => f.regReg .addRegReg
  | 3 => f.regImm .addRegImm
  | 4 => f.regInd .addRegInd
  | 5 => f.regDir .addRegDir
  | 6 => f.regIndIdx .addRegIndIdx
  | 7 => f.regDirIdx .addRegDirIdx
  | 8 => f.una .markReg
  | _ => .error .invalidMode

/-- First bytes 40 to 4F (30_encoding.md R95, R96). -/
def decodeRow4 (lo : Nat) (f : Fields) : Except DecodeError Header :=
  match lo with
  | 2 => f.regReg .subRegReg
  | 3 => f.regImm .subRegImm
  | 4 => f.regInd .subRegInd
  | 5 => f.regDir .subRegDir
  | 6 => f.regIndIdx .subRegIndIdx
  | 7 => f.regDirIdx .subRegDirIdx
  | 8 => f.unaSized .popReg
  | _ => .error .invalidMode

/-- First bytes 50 to 5F (30_encoding.md R95, R96). -/
def decodeRow5 (lo : Nat) (f : Fields) : Except DecodeError Header :=
  match lo with
  | 2 => f.regReg .mulRegReg
  | 3 => f.regImm .mulRegImm
  | 4 => f.regInd .mulRegInd
  | 5 => f.regDir .mulRegDir
  | 6 => f.regIndIdx .mulRegIndIdx
  | 7 => f.regDirIdx .mulRegDirIdx
  | 8 => f.unbSized .pushReg
  | 9 => f.unbSizedImm .pushImm
  | _ => .error .invalidMode

/-- First bytes 60 to 6F (30_encoding.md R95, R96). -/
def decodeRow6 (lo : Nat) (f : Fields) : Except DecodeError Header :=
  match lo with
  | 2 => f.regReg .divRegReg
  | 3 => f.regImm .divRegImm
  | 4 => f.regInd .divRegInd
  | 5 => f.regDir .divRegDir
  | 6 => f.regIndIdx .divRegIndIdx
  | 7 => f.regDirIdx .divRegDirIdx
  | 8 => f.jccReg
  | 9 => f.jccImm
  | _ => .error .invalidMode

/-- First bytes 70 to 7F (30_encoding.md R95, R96). -/
def decodeRow7 (lo : Nat) (f : Fields) : Except DecodeError Header :=
  match lo with
  | 0 => .error .unassigned
  | 1 => .error .unassigned
  | 2 => .error .unassigned
  | 3 => .error .unassigned
  | 4 => .error .unassigned
  | 5 => .error .unassigned
  | 6 => .error .unassigned
  | 7 => .error .unassigned
  | 8 => f.unb .callReg
  | 9 => f.unbImm .callImm
  | _ => .error .invalidMode

/-- First bytes 80 to 8F (30_encoding.md R95, R96). -/
def decodeRow8 (_lo : Nat) (_f : Fields) : Except DecodeError Header :=
  .error .unassigned

/-- First bytes 90 to 9F (30_encoding.md R95, R96). -/
def decodeRow9 (_lo : Nat) (_f : Fields) : Except DecodeError Header :=
  .error .unassigned

/-- First bytes A0 to AF (30_encoding.md R95, R96). -/
def decodeRowA (lo : Nat) (f : Fields) : Except DecodeError Header :=
  match lo with
  | 0 => .error .invalidMode
  | 1 => .error .invalidMode
  | 2 => f.regReg .lduRegReg
  | 3 => f.regImm .lduRegImm
  | 4 => f.regInd .lduRegInd
  | 5 => f.regDir .lduRegDir
  | 6 => f.regIndIdx .lduRegIndIdx
  | 7 => f.regDirIdx .lduRegDirIdx
  | _ => .error .unassigned

/-- First bytes B0 to BF (30_encoding.md R95, R96). -/
def decodeRowB (lo : Nat) (f : Fields) : Except DecodeError Header :=
  match lo with
  | 2 => f.regReg .ldrRegReg
  | 3 => f.regImm .ldrRegImm
  | 4 => f.regInd .ldrRegInd
  | 5 => f.regDir .ldrRegDir
  | 6 => f.regIndIdx .ldrRegIndIdx
  | 7 => f.regDirIdx .ldrRegDirIdx
  | 10 => f.regInd .inRegReg
  | 11 => f.regDir .inRegImm
  | 12 => f.regInd .inRegInd
  | 13 => f.regDir .inRegDir
  | 14 => f.regIndIdx .inRegIndIdx
  | 15 => f.regDirIdx .inRegDirIdx
  | _ => .error .invalidMode

/-- First bytes C0 to CF (30_encoding.md R95, R96). -/
def decodeRowC (lo : Nat) (f : Fields) : Except DecodeError Header :=
  match lo with
  | 2 => f.regReg .cmpRegReg
  | 3 => f.regImm .cmpRegImm
  | 4 => f.regInd .cmpRegInd
  | 5 => f.regDir .cmpRegDir
  | 6 => f.regIndIdx .cmpRegIndIdx
  | 7 => f.regDirIdx .cmpRegDirIdx
  | 10 => f.regInd .outRegReg
  | 11 => f.regDir .outRegImm
  | 12 => f.regInd .outRegInd
  | 13 => f.regDir .outRegDir
  | 14 => f.regIndIdx .outRegIndIdx
  | 15 => f.regDirIdx .outRegDirIdx
  | _ => .error .invalidMode

/-- First bytes D0 to DF (30_encoding.md R95, R96). -/
def decodeRowD (lo : Nat) (f : Fields) : Except DecodeError Header :=
  match lo with
  | 4 => f.regInd .strRegInd
  | 5 => f.regDir .strRegDir
  | 6 => f.regIndIdx .strRegIndIdx
  | 7 => f.regDirIdx .strRegDirIdx
  | 10 => f.regInd .setRegReg
  | 11 => f.regDir .setRegImm
  | 12 => f.regInd .setRegInd
  | 13 => f.regDir .setRegDir
  | 14 => f.regIndIdx .setRegIndIdx
  | 15 => f.regDirIdx .setRegDirIdx
  | _ => .error .invalidMode

/-- First bytes E0 to EF (30_encoding.md R95, R96). -/
def decodeRowE (lo : Nat) (f : Fields) : Except DecodeError Header :=
  match lo with
  | 0 => .error .invalidMode
  | 1 => .error .invalidMode
  | 2 => .error .invalidMode
  | 3 => .error .invalidMode
  | 4 => f.regReg .leaRegInd
  | 5 => f.regImm .leaRegDir
  | 6 => f.regIndIdx .leaRegIndIdx
  | 7 => f.regDirIdx .leaRegDirIdx
  | _ => .error .unassigned

/-- First bytes F0 to FF (30_encoding.md R95, R96). -/
def decodeRowF (lo : Nat) (f : Fields) : Except DecodeError Header :=
  match lo with
  | 8 => f.bare .ret
  | 9 => f.bare .sys
  | 10 => f.bare .rti
  | 15 => f.bare .nop
  | _ => .error .unassigned

/-- R97: from the three base bytes to an instruction, or an instruction awaiting its immediate, or a rejection by
name. -/
def decodeBase (strict : Bool) (b0 b1 b2 : Byte) : Except DecodeError Header :=
  let f : Fields :=
    { strict := strict, idx := highNibble b1, size := lowNibble b1, a := highNibble b2, b := lowNibble b2 }
  let lo := (lowNibble b0).toNat
  match (highNibble b0).toNat with
  | 0 => decodeRow0 lo f
  | 1 => decodeRow1 lo f
  | 2 => decodeRow2 lo f
  | 3 => decodeRow3 lo f
  | 4 => decodeRow4 lo f
  | 5 => decodeRow5 lo f
  | 6 => decodeRow6 lo f
  | 7 => decodeRow7 lo f
  | 8 => decodeRow8 lo f
  | 9 => decodeRow9 lo f
  | 10 => decodeRowA lo f
  | 11 => decodeRowB lo f
  | 12 => decodeRowC lo f
  | 13 => decodeRowD lo f
  | 14 => decodeRowE lo f
  | _ => decodeRowF lo f

/-- The first bytes of the privileged instructions: IN, OUT, SET (xA to xF of rows B, C, D) and RTI (30_encoding.md
R95, 45_system.md R240). -/
def privilegedByte (b0 : Byte) : Bool :=
  let hi := (highNibble b0).toNat
  let lo := (lowNibble b0).toNat
  (decide (11 ≤ hi) && decide (hi ≤ 13) && decide (10 ≤ lo)) || (hi == 15 && lo == 10)

/-- The instruction at the head of a string of bytes and what follows it: base, then the immediate's bytes where the
base announces them (30_encoding.md R97, R106). -/
def decode (strict : Bool) : List Byte → Except DecodeError (Instr × List Byte)
  | b0 :: b1 :: b2 :: rest =>
    match decodeBase strict b0 b1 b2 with
    | .error e => .error e
    | .ok h =>
      match Machine.takeBytes h.ilen rest with
      | some (immBytes, rest') => .ok (h.build immBytes, rest')
      | none => .error .truncated
  | _ => .error .truncated

/-- The bytes of an instruction whose bits are `w`, numbered as spec/opcode_table.json numbers them (30_encoding.md
R98, log 31): bits 23:16 the first byte, 15:8 the second, 7:0 the third; byte `3 + k` stands in bits `24 + 8k` and up.
Bits from `nbits` up are zero; eleven bytes, the longest legal instruction, are laid out. -/
def tableBytes (nbits w : Nat) : List Byte :=
  let v := w % 2 ^ nbits
  let byte (at_ : Nat) : Byte := BitVec.ofNat 8 (v / 2 ^ at_)
  [byte 16, byte 8, byte 0, byte 24, byte 32, byte 40, byte 48, byte 56, byte 64, byte 72, byte 80]

/-- The instruction the decoder reads from a word of the opcode table. -/
def decodeTableWord (nbits w : Nat) : Option Instr :=
  match decode false (tableBytes nbits w) with
  | .ok (i, _) => some i
  | .error _ => none

/-! ### The encoder: unused fields are written as zero (30_encoding.md R104) -/

/-- The three base bytes from the first byte and the four nibbles (30_encoding.md R81). -/
def baseBytes (b0 : Byte) (idx size a b : Nibble) : List Byte :=
  [b0, byteOf idx size, byteOf a b]

/-- The bytes of an immediate, most significant first (20_memory.md R52). -/
def Imm.encode (imm : Imm) : List Byte :=
  Machine.wordToBytes imm.size.bytes imm.value

/-- Encoder of `Fields.regReg`. -/
def encRegReg (b0 : Byte) (a b : Reg) : List Byte := baseBytes b0 0 0 a.toNibble b.toNibble
/-- Encoder of `Fields.regImm`. -/
def encRegImm (b0 : Byte) (a : Reg) (imm : Imm) : List Byte :=
  baseBytes b0 0 0 a.toNibble imm.size.toNibble ++ imm.encode
/-- Encoder of `Fields.regInd`. -/
def encRegInd (b0 : Byte) (sz : Size) (a b : Reg) : List Byte := baseBytes b0 0 sz.toNibble a.toNibble b.toNibble
/-- Encoder of `Fields.regDir`. -/
def encRegDir (b0 : Byte) (sz : Size) (a : Reg) (imm : Imm) : List Byte :=
  baseBytes b0 0 sz.toNibble a.toNibble imm.size.toNibble ++ imm.encode
/-- Encoder of `Fields.regIndIdx`. -/
def encRegIndIdx (b0 : Byte) (idx : Reg) (sz : Size) (a b : Reg) : List Byte :=
  baseBytes b0 idx.toNibble sz.toNibble a.toNibble b.toNibble
/-- Encoder of `Fields.regDirIdx`. -/
def encRegDirIdx (b0 : Byte) (idx : Reg) (sz : Size) (a : Reg) (imm : Imm) : List Byte :=
  baseBytes b0 idx.toNibble sz.toNibble a.toNibble imm.size.toNibble ++ imm.encode
/-- Encoder of `Fields.una`. -/
def encUna (b0 : Byte) (a : Reg) : List Byte := baseBytes b0 0 0 a.toNibble 0
/-- Encoder of `Fields.unaSized`. -/
def encUnaSized (b0 : Byte) (sz : Size) (a : Reg) : List Byte := baseBytes b0 0 sz.toNibble a.toNibble 0
/-- Encoder of `Fields.unb`. -/
def encUnb (b0 : Byte) (b : Reg) : List Byte := baseBytes b0 0 0 0 b.toNibble
/-- Encoder of `Fields.unbImm`. -/
def encUnbImm (b0 : Byte) (imm : Imm) : List Byte := baseBytes b0 0 0 0 imm.size.toNibble ++ imm.encode
/-- Encoder of `Fields.unbSized`. -/
def encUnbSized (b0 : Byte) (sz : Size) (b : Reg) : List Byte := baseBytes b0 0 sz.toNibble 0 b.toNibble
/-- Encoder of `Fields.unbSizedImm`. -/
def encUnbSizedImm (b0 : Byte) (sz : Size) (imm : Imm) : List Byte :=
  baseBytes b0 0 sz.toNibble 0 imm.size.toNibble ++ imm.encode
/-- Encoder of `Fields.bare`. -/
def encBare (b0 : Byte) : List Byte := baseBytes b0 0 0 0 0
/-- Encoder of `Fields.jccReg`. -/
def encJccReg (c : Cond) (b : Reg) : List Byte := baseBytes 0x68 0 0 c.toNibble b.toNibble
/-- Encoder of `Fields.jccImm`. -/
def encJccImm (c : Cond) (imm : Imm) : List Byte := baseBytes 0x69 0 0 c.toNibble imm.size.toNibble ++ imm.encode

/-- The bytes of an instruction in ascending address order (30_encoding.md R81, R91 to R95). -/
def encode : Instr → List Byte
  | .andRegReg a b => encRegReg 0x02 a b
  | .andRegImm a imm => encRegImm 0x03 a imm
  | .andRegInd sz a b => encRegInd 0x04 sz a b
  | .andRegDir sz a imm => encRegDir 0x05 sz a imm
  | .andRegIndIdx idx sz a b => encRegIndIdx 0x06 idx sz a b
  | .andRegDirIdx idx sz a imm => encRegDirIdx 0x07 idx sz a imm
  | .orRegReg a b => encRegReg 0x12 a b
  | .orRegImm a imm => encRegImm 0x13 a imm
  | .orRegInd sz a b => encRegInd 0x14 sz a b
  | .orRegDir sz a imm => encRegDir 0x15 sz a imm
  | .orRegIndIdx idx sz a b => encRegIndIdx 0x16 idx sz a b
  | .orRegDirIdx idx sz a imm => encRegDirIdx 0x17 idx sz a imm
  | .xorRegReg a b => encRegReg 0x22 a b
  | .xorRegImm a imm => encRegImm 0x23 a imm
  | .xorRegInd sz a b => encRegInd 0x24 sz a b
  | .xorRegDir sz a imm => encRegDir 0x25 sz a imm
  | .xorRegIndIdx idx sz a b => encRegIndIdx 0x26 idx sz a b
  | .xorRegDirIdx idx sz a imm => encRegDirIdx 0x27 idx sz a imm
  | .addRegReg a b => encRegReg 0x32 a b
  | .addRegImm a imm => encRegImm 0x33 a imm
  | .addRegInd sz a b => encRegInd 0x34 sz a b
  | .addRegDir sz a imm => encRegDir 0x35 sz a imm
  | .addRegIndIdx idx sz a b => encRegIndIdx 0x36 idx sz a b
  | .addRegDirIdx idx sz a imm => encRegDirIdx 0x37 idx sz a imm
  | .subRegReg a b => encRegReg 0x42 a b
  | .subRegImm a imm => encRegImm 0x43 a imm
  | .subRegInd sz a b => encRegInd 0x44 sz a b
  | .subRegDir sz a imm => encRegDir 0x45 sz a imm
  | .subRegIndIdx idx sz a b => encRegIndIdx 0x46 idx sz a b
  | .subRegDirIdx idx sz a imm => encRegDirIdx 0x47 idx sz a imm
  | .mulRegReg a b => encRegReg 0x52 a b
  | .mulRegImm a imm => encRegImm 0x53 a imm
  | .mulRegInd sz a b => encRegInd 0x54 sz a b
  | .mulRegDir sz a imm => encRegDir 0x55 sz a imm
  | .mulRegIndIdx idx sz a b => encRegIndIdx 0x56 idx sz a b
  | .mulRegDirIdx idx sz a imm => encRegDirIdx 0x57 idx sz a imm
  | .divRegReg a b => encRegReg 0x62 a b
  | .divRegImm a imm => encRegImm 0x63 a imm
  | .divRegInd sz a b => encRegInd 0x64 sz a b
  | .divRegDir sz a imm => encRegDir 0x65 sz a imm
  | .divRegIndIdx idx sz a b => encRegIndIdx 0x66 idx sz a b
  | .divRegDirIdx idx sz a imm => encRegDirIdx 0x67 idx sz a imm
  | .lduRegReg a b => encRegReg 0xA2 a b
  | .lduRegImm a imm => encRegImm 0xA3 a imm
  | .lduRegInd sz a b => encRegInd 0xA4 sz a b
  | .lduRegDir sz a imm => encRegDir 0xA5 sz a imm
  | .lduRegIndIdx idx sz a b => encRegIndIdx 0xA6 idx sz a b
  | .lduRegDirIdx idx sz a imm => encRegDirIdx 0xA7 idx sz a imm
  | .ldrRegReg a b => encRegReg 0xB2 a b
  | .ldrRegImm a imm => encRegImm 0xB3 a imm
  | .ldrRegInd sz a b => encRegInd 0xB4 sz a b
  | .ldrRegDir sz a imm => encRegDir 0xB5 sz a imm
  | .ldrRegIndIdx idx sz a b => encRegIndIdx 0xB6 idx sz a b
  | .ldrRegDirIdx idx sz a imm => encRegDirIdx 0xB7 idx sz a imm
  | .cmpRegReg a b => encRegReg 0xC2 a b
  | .cmpRegImm a imm => encRegImm 0xC3 a imm
  | .cmpRegInd sz a b => encRegInd 0xC4 sz a b
  | .cmpRegDir sz a imm => encRegDir 0xC5 sz a imm
  | .cmpRegIndIdx idx sz a b => encRegIndIdx 0xC6 idx sz a b
  | .cmpRegDirIdx idx sz a imm => encRegDirIdx 0xC7 idx sz a imm
  | .inRegReg sz a b => encRegInd 0xBA sz a b
  | .inRegImm sz a imm => encRegDir 0xBB sz a imm
  | .inRegInd sz a b => encRegInd 0xBC sz a b
  | .inRegDir sz a imm => encRegDir 0xBD sz a imm
  | .inRegIndIdx idx sz a b => encRegIndIdx 0xBE idx sz a b
  | .inRegDirIdx idx sz a imm => encRegDirIdx 0xBF idx sz a imm
  | .outRegReg sz a b => encRegInd 0xCA sz a b
  | .outRegImm sz a imm => encRegDir 0xCB sz a imm
  | .outRegInd sz a b => encRegInd 0xCC sz a b
  | .outRegDir sz a imm => encRegDir 0xCD sz a imm
  | .outRegIndIdx idx sz a b => encRegIndIdx 0xCE idx sz a b
  | .outRegDirIdx idx sz a imm => encRegDirIdx 0xCF idx sz a imm
  | .setRegReg sz a b => encRegInd 0xDA sz a b
  | .setRegImm sz a imm => encRegDir 0xDB sz a imm
  | .setRegInd sz a b => encRegInd 0xDC sz a b
  | .setRegDir sz a imm => encRegDir 0xDD sz a imm
  | .setRegIndIdx idx sz a b => encRegIndIdx 0xDE idx sz a b
  | .setRegDirIdx idx sz a imm => encRegDirIdx 0xDF idx sz a imm
  | .strRegInd sz a b => encRegInd 0xD4 sz a b
  | .strRegDir sz a imm => encRegDir 0xD5 sz a imm
  | .strRegIndIdx idx sz a b => encRegIndIdx 0xD6 idx sz a b
  | .strRegDirIdx idx sz a imm => encRegDirIdx 0xD7 idx sz a imm
  | .leaRegInd a b => encRegReg 0xE4 a b
  | .leaRegDir a imm => encRegImm 0xE5 a imm
  | .leaRegIndIdx idx sz a b => encRegIndIdx 0xE6 idx sz a b
  | .leaRegDirIdx idx sz a imm => encRegDirIdx 0xE7 idx sz a imm
  | .notReg a => encUna 0x08 a
  | .negReg a => encUna 0x18 a
  | .freeReg a => encUna 0x28 a
  | .markReg a => encUna 0x38 a
  | .popReg sz a => encUnaSized 0x48 sz a
  | .pushReg sz b => encUnbSized 0x58 sz b
  | .pushImm sz imm => encUnbSizedImm 0x59 sz imm
  | .callReg b => encUnb 0x78 b
  | .callImm imm => encUnbImm 0x79 imm
  | .jneReg b => encJccReg .ne b
  | .jneImm imm => encJccImm .ne imm
  | .jeReg b => encJccReg .e b
  | .jeImm imm => encJccImm .e imm
  | .jgReg b => encJccReg .g b
  | .jgImm imm => encJccImm .g imm
  | .jgeReg b => encJccReg .ge b
  | .jgeImm imm => encJccImm .ge imm
  | .jlReg b => encJccReg .l b
  | .jlImm imm => encJccImm .l imm
  | .jleReg b => encJccReg .le b
  | .jleImm imm => encJccImm .le imm
  | .jnoReg b => encJccReg .no b
  | .jnoImm imm => encJccImm .no imm
  | .joReg b => encJccReg .o b
  | .joImm imm => encJccImm .o imm
  | .jmpReg b => encJccReg .always b
  | .jmpImm imm => encJccImm .always imm
  | .ret => encBare 0xF8
  | .sys => encBare 0xF9
  | .rti => encBare 0xFA
  | .nop => encBare 0xFF

end Sys2Proof
end

