-- ==== Sys2Proof/Machine/Fetch.lean ====
section
/-! DEFINITION. Fetching and decoding the instruction at pc (40_operands.md R120, steps 2 to 5). -/

namespace Sys2Proof.Machine

/-- Fetch(addr): one instruction byte (20_memory.md R57). -/
def fetchByte (s : State) (addr : Word) : Except Fault Byte :=
  if admits s .fetch addr 1 then .ok (readByte s addr) else .error (.memoryFault addr .fetch)

/-- `n` instruction bytes from an address up, in order (20_memory.md R57). -/
def fetchBytes (s : State) (addr : Word) : Nat → Except Fault (List Byte)
  | 0 => .ok []
  | n + 1 =>
    match fetchByte s addr with
    | .error f => .error f
    | .ok b =>
      match fetchBytes s (addr + 1) n with
      | .error f => .error f
      | .ok rest => .ok (b :: rest)

/-- Steps 3 to 5 of R120 on the three base bytes: decode, the privilege check, and only then the immediate
(60_exceptions.md R274). -/
def fetchDecoded (s : State) (b0 b1 b2 : Byte) : Except Fault Instr :=
  match decodeBase s.cfg.strictReserved b0 b1 b2 with
  | .error _ => .error (.illegalInstruction s.pc b0 b1 b2)
  | .ok h =>
    if privilegedByte b0 && s.mode == .application then .error (.privilegeViolation s.pc)
    else
      match fetchBytes s (s.pc + 3) h.ilen with
      | .error f => .error f
      | .ok immBytes => .ok (h.build immBytes)

/-- The instruction at pc (40_operands.md R120, steps 2 to 5). -/
def fetchInstr (s : State) : Except Fault Instr :=
  match fetchBytes s s.pc 3 with
  | .ok [b0, b1, b2] => fetchDecoded s b0 b1 b2
  | .ok _ => .error (.memoryFault s.pc .fetch)
  | .error f => .error f

end Sys2Proof.Machine
end

