-- ==== Sys2Proof/Machine/Step.lean ====
section
/-! DEFINITION. One step of the machine (40_operands.md R120). -/

namespace Sys2Proof.Machine

/-- Steps 2 to 6 of R120: fetch, decode and execute one instruction. -/
def runInstr (s : State) : Host.Outcome State Fault Refusal :=
  match fetchInstr s with
  | .ok i => exec i s
  | .error f => .next (s.raise f)

/-- One step (40_operands.md R120). A faulted machine takes no step (60_exceptions.md R262). The interrupt oracle is
sampled first; an accepted request is the whole step (60_exceptions.md R270 to R272). -/
def step (s : State) : Host.Outcome State Fault Refusal :=
  match s.status with
  | .faulted f => .fault f
  | .running =>
    match s.ai with
    | false => runInstr (sampled s)
    | true =>
      match irqRequest s with
      | some k => interruptEntry k (sampled s)
      | none => runInstr (sampled s)

/-- The state with the instruction of an opcode-table word placed at pc: its bytes, and zeros up to the longest
instruction (log 31). -/
def State.withFetchWord (s : State) (nbits w : Nat) : State :=
  writeBytes s s.pc (tableBytes nbits w)

end Sys2Proof.Machine
end

