-- ==== Sys2Proof/Machine/Forms.lean ====
section
/-! DEFINITION. The instructions of one mnemonic together: the constructor of each addressing mode, and the operation
an instruction performs with the operands its mode gives. The statements and the assembler speak in these terms. -/

namespace Sys2Proof

open Machine

/-- The Source operand of IN, OUT and SET, whose Size code is used in every mode (40_operands.md R126). -/
inductive SizedSource where
  | reg (b : Reg)
  | imm (imm : Imm)
  | mem (m : MemOperand)
  deriving DecidableEq, Repr

/-- The Source operand that a Size code makes of it. -/
def SizedSource.withSize (sz : Size) : SizedSource → Source
  | .reg b => .reg b
  | .imm i => .imm i
  | .mem m => .mem sz m

/-! ### The constructor of each mode, by mnemonic -/

/-- ADD with a Source operand: its six modes. -/
def addInstr (a : Reg) : Source → Instr
  | .reg b => .addRegReg a b
  | .imm imm => .addRegImm a imm
  | .mem sz (.ind b) => .addRegInd sz a b
  | .mem sz (.dir imm) => .addRegDir sz a imm
  | .mem sz (.indIdx idx b) => .addRegIndIdx idx sz a b
  | .mem sz (.dirIdx idx imm) => .addRegDirIdx idx sz a imm

/-- AND with a Source operand: its six modes. -/
def andInstr (a : Reg) : Source → Instr
  | .reg b => .andRegReg a b
  | .imm imm => .andRegImm a imm
  | .mem sz (.ind b) => .andRegInd sz a b
  | .mem sz (.dir imm) => .andRegDir sz a imm
  | .mem sz (.indIdx idx b) => .andRegIndIdx idx sz a b
  | .mem sz (.dirIdx idx imm) => .andRegDirIdx idx sz a imm

/-- CMP with a Source operand: its six modes. -/
def cmpInstr (a : Reg) : Source → Instr
  | .reg b => .cmpRegReg a b
  | .imm imm => .cmpRegImm a imm
  | .mem sz (.ind b) => .cmpRegInd sz a b
  | .mem sz (.dir imm) => .cmpRegDir sz a imm
  | .mem sz (.indIdx idx b) => .cmpRegIndIdx idx sz a b
  | .mem sz (.dirIdx idx imm) => .cmpRegDirIdx idx sz a imm

/-- DIV with a Source operand: its six modes. -/
def divInstr (a : Reg) : Source → Instr
  | .reg b => .divRegReg a b
  | .imm imm => .divRegImm a imm
  | .mem sz (.ind b) => .divRegInd sz a b
  | .mem sz (.dir imm) => .divRegDir sz a imm
  | .mem sz (.indIdx idx b) => .divRegIndIdx idx sz a b
  | .mem sz (.dirIdx idx imm) => .divRegDirIdx idx sz a imm

/-- LDR with a Source operand: its six modes. -/
def ldrInstr (a : Reg) : Source → Instr
  | .reg b => .ldrRegReg a b
  | .imm imm => .ldrRegImm a imm
  | .mem sz (.ind b) => .ldrRegInd sz a b
  | .mem sz (.dir imm) => .ldrRegDir sz a imm
  | .mem sz (.indIdx idx b) => .ldrRegIndIdx idx sz a b
  | .mem sz (.dirIdx idx imm) => .ldrRegDirIdx idx sz a imm

/-- LDU with a Source operand: its six modes. -/
def lduInstr (a : Reg) : Source → Instr
  | .reg b => .lduRegReg a b
  | .imm imm => .lduRegImm a imm
  | .mem sz (.ind b) => .lduRegInd sz a b
  | .mem sz (.dir imm) => .lduRegDir sz a imm
  | .mem sz (.indIdx idx b) => .lduRegIndIdx idx sz a b
  | .mem sz (.dirIdx idx imm) => .lduRegDirIdx idx sz a imm

/-- MUL with a Source operand: its six modes. -/
def mulInstr (a : Reg) : Source → Instr
  | .reg b => .mulRegReg a b
  | .imm imm => .mulRegImm a imm
  | .mem sz (.ind b) => .mulRegInd sz a b
  | .mem sz (.dir imm) => .mulRegDir sz a imm
  | .mem sz (.indIdx idx b) => .mulRegIndIdx idx sz a b
  | .mem sz (.dirIdx idx imm) => .mulRegDirIdx idx sz a imm

/-- OR with a Source operand: its six modes. -/
def orInstr (a : Reg) : Source → Instr
  | .reg b => .orRegReg a b
  | .imm imm => .orRegImm a imm
  | .mem sz (.ind b) => .orRegInd sz a b
  | .mem sz (.dir imm) => .orRegDir sz a imm
  | .mem sz (.indIdx idx b) => .orRegIndIdx idx sz a b
  | .mem sz (.dirIdx idx imm) => .orRegDirIdx idx sz a imm

/-- SUB with a Source operand: its six modes. -/
def subInstr (a : Reg) : Source → Instr
  | .reg b => .subRegReg a b
  | .imm imm => .subRegImm a imm
  | .mem sz (.ind b) => .subRegInd sz a b
  | .mem sz (.dir imm) => .subRegDir sz a imm
  | .mem sz (.indIdx idx b) => .subRegIndIdx idx sz a b
  | .mem sz (.dirIdx idx imm) => .subRegDirIdx idx sz a imm

/-- XOR with a Source operand: its six modes. -/
def xorInstr (a : Reg) : Source → Instr
  | .reg b => .xorRegReg a b
  | .imm imm => .xorRegImm a imm
  | .mem sz (.ind b) => .xorRegInd sz a b
  | .mem sz (.dir imm) => .xorRegDir sz a imm
  | .mem sz (.indIdx idx b) => .xorRegIndIdx idx sz a b
  | .mem sz (.dirIdx idx imm) => .xorRegDirIdx idx sz a imm

/-- IN with a Size code and a Source operand: its six modes. -/
def inInstr (sz : Size) (a : Reg) : SizedSource → Instr
  | .reg b => .inRegReg sz a b
  | .imm imm => .inRegImm sz a imm
  | .mem (.ind b) => .inRegInd sz a b
  | .mem (.dir imm) => .inRegDir sz a imm
  | .mem (.indIdx idx b) => .inRegIndIdx idx sz a b
  | .mem (.dirIdx idx imm) => .inRegDirIdx idx sz a imm

/-- OUT with a Size code and a Source operand: its six modes. -/
def outInstr (sz : Size) (a : Reg) : SizedSource → Instr
  | .reg b => .outRegReg sz a b
  | .imm imm => .outRegImm sz a imm
  | .mem (.ind b) => .outRegInd sz a b
  | .mem (.dir imm) => .outRegDir sz a imm
  | .mem (.indIdx idx b) => .outRegIndIdx idx sz a b
  | .mem (.dirIdx idx imm) => .outRegDirIdx idx sz a imm

/-- SET with a Size code and a Source operand: its six modes. -/
def setInstr (sz : Size) (a : Reg) : SizedSource → Instr
  | .reg b => .setRegReg sz a b
  | .imm imm => .setRegImm sz a imm
  | .mem (.ind b) => .setRegInd sz a b
  | .mem (.dir imm) => .setRegDir sz a imm
  | .mem (.indIdx idx b) => .setRegIndIdx idx sz a b
  | .mem (.dirIdx idx imm) => .setRegDirIdx idx sz a imm

/-- STR with a memory operand: its four modes. -/
def strInstr (sz : Size) (a : Reg) : MemOperand → Instr
  | .ind b => .strRegInd sz a b
  | .dir imm => .strRegDir sz a imm
  | .indIdx idx b => .strRegIndIdx idx sz a b
  | .dirIdx idx imm => .strRegDirIdx idx sz a imm

/-- LEA with a memory operand: its four modes. The Size code is used in the indexed modes only (40_operands.md
R126). -/
def leaInstr (sz : Size) (a : Reg) : MemOperand → Instr
  | .ind b => .leaRegInd a b
  | .dir imm => .leaRegDir a imm
  | .indIdx idx b => .leaRegIndIdx idx sz a b
  | .dirIdx idx imm => .leaRegDirIdx idx sz a imm

/-- PUSH with its operand: its two modes. -/
def pushInstr (sz : Size) : UnarySource → Instr
  | .reg b => .pushReg sz b
  | .imm imm => .pushImm sz imm

/-- CALL with its target: its two modes. -/
def callInstr : UnarySource → Instr
  | .reg b => .callReg b
  | .imm imm => .callImm imm

/-- Jcc with its condition and target: nine mnemonics in two modes. -/
def jccInstr (c : Cond) : UnarySource → Instr
  | .reg b => jccReg c b
  | .imm imm => jccImm c imm

/-! ### The operation of an instruction -/

namespace Machine

/-- What an instruction does, with the operands its addressing mode gives: the families of 41_arith_logic.md to
45_system.md. -/
inductive Operation where
  /-- The seven two-operand ALU instructions (R140). -/
  | binary (op : AluOp) (a : Reg) (src : Source)
  /-- NEG and NOT (R149, R150). -/
  | unary (op : AluOp) (a : Reg)
  /-- CMP (R145). -/
  | compare (a : Reg) (src : Source)
  /-- LDU and LDR (R170, R171). -/
  | load (k : Ext) (a : Reg) (src : Source)
  /-- LEA (R172). -/
  | address (a : Reg) (sz : Size) (m : MemOperand)
  /-- STR (R173). -/
  | store (a : Reg) (sz : Size) (m : MemOperand)
  /-- PUSH (R193). -/
  | push (sz : Size) (src : UnarySource)
  /-- POP (R194). -/
  | pop (sz : Size) (a : Reg)
  /-- MARK (R195). -/
  | mark (a : Reg)
  /-- FREE (R196). -/
  | free (a : Reg)
  /-- CALL (R212). -/
  | call (target : UnarySource)
  /-- Jcc (R214). -/
  | jump (c : Cond) (target : UnarySource)
  /-- RET (R230). -/
  | ret
  /-- NOP (R232). -/
  | nop
  /-- IN (R246). -/
  | portIn (a : Reg) (sz : Size) (src : Source)
  /-- OUT (R249). -/
  | portOut (a : Reg) (sz : Size) (src : Source)
  /-- SET (R252). -/
  | setting (a : Reg) (sz : Size) (src : Source)
  /-- SYS (R241). -/
  | sys
  /-- RTI (R243). -/
  | rti
  deriving DecidableEq, Repr

end Machine

/-- The operation of an instruction. -/
def Instr.operation : Instr → Operation
  | .andRegReg a b => .binary .and a (.reg b)
  | .andRegImm a imm => .binary .and a (.imm imm)
  | .andRegInd sz a b => .binary .and a (.mem sz (.ind b))
  | .andRegDir sz a imm => .binary .and a (.mem sz (.dir imm))
  | .andRegIndIdx idx sz a b => .binary .and a (.mem sz (.indIdx idx b))
  | .andRegDirIdx idx sz a imm => .binary .and a (.mem sz (.dirIdx idx imm))
  | .orRegReg a b => .binary .or a (.reg b)
  | .orRegImm a imm => .binary .or a (.imm imm)
  | .orRegInd sz a b => .binary .or a (.mem sz (.ind b))
  | .orRegDir sz a imm => .binary .or a (.mem sz (.dir imm))
  | .orRegIndIdx idx sz a b => .binary .or a (.mem sz (.indIdx idx b))
  | .orRegDirIdx idx sz a imm => .binary .or a (.mem sz (.dirIdx idx imm))
  | .xorRegReg a b => .binary .xor a (.reg b)
  | .xorRegImm a imm => .binary .xor a (.imm imm)
  | .xorRegInd sz a b => .binary .xor a (.mem sz (.ind b))
  | .xorRegDir sz a imm => .binary .xor a (.mem sz (.dir imm))
  | .xorRegIndIdx idx sz a b => .binary .xor a (.mem sz (.indIdx idx b))
  | .xorRegDirIdx idx sz a imm => .binary .xor a (.mem sz (.dirIdx idx imm))
  | .addRegReg a b => .binary .add a (.reg b)
  | .addRegImm a imm => .binary .add a (.imm imm)
  | .addRegInd sz a b => .binary .add a (.mem sz (.ind b))
  | .addRegDir sz a imm => .binary .add a (.mem sz (.dir imm))
  | .addRegIndIdx idx sz a b => .binary .add a (.mem sz (.indIdx idx b))
  | .addRegDirIdx idx sz a imm => .binary .add a (.mem sz (.dirIdx idx imm))
  | .subRegReg a b => .binary .sub a (.reg b)
  | .subRegImm a imm => .binary .sub a (.imm imm)
  | .subRegInd sz a b => .binary .sub a (.mem sz (.ind b))
  | .subRegDir sz a imm => .binary .sub a (.mem sz (.dir imm))
  | .subRegIndIdx idx sz a b => .binary .sub a (.mem sz (.indIdx idx b))
  | .subRegDirIdx idx sz a imm => .binary .sub a (.mem sz (.dirIdx idx imm))
  | .mulRegReg a b => .binary .mul a (.reg b)
  | .mulRegImm a imm => .binary .mul a (.imm imm)
  | .mulRegInd sz a b => .binary .mul a (.mem sz (.ind b))
  | .mulRegDir sz a imm => .binary .mul a (.mem sz (.dir imm))
  | .mulRegIndIdx idx sz a b => .binary .mul a (.mem sz (.indIdx idx b))
  | .mulRegDirIdx idx sz a imm => .binary .mul a (.mem sz (.dirIdx idx imm))
  | .divRegReg a b => .binary .div a (.reg b)
  | .divRegImm a imm => .binary .div a (.imm imm)
  | .divRegInd sz a b => .binary .div a (.mem sz (.ind b))
  | .divRegDir sz a imm => .binary .div a (.mem sz (.dir imm))
  | .divRegIndIdx idx sz a b => .binary .div a (.mem sz (.indIdx idx b))
  | .divRegDirIdx idx sz a imm => .binary .div a (.mem sz (.dirIdx idx imm))
  | .lduRegReg a b => .load .zero a (.reg b)
  | .lduRegImm a imm => .load .zero a (.imm imm)
  | .lduRegInd sz a b => .load .zero a (.mem sz (.ind b))
  | .lduRegDir sz a imm => .load .zero a (.mem sz (.dir imm))
  | .lduRegIndIdx idx sz a b => .load .zero a (.mem sz (.indIdx idx b))
  | .lduRegDirIdx idx sz a imm => .load .zero a (.mem sz (.dirIdx idx imm))
  | .ldrRegReg a b => .load .sign a (.reg b)
  | .ldrRegImm a imm => .load .sign a (.imm imm)
  | .ldrRegInd sz a b => .load .sign a (.mem sz (.ind b))
  | .ldrRegDir sz a imm => .load .sign a (.mem sz (.dir imm))
  | .ldrRegIndIdx idx sz a b => .load .sign a (.mem sz (.indIdx idx b))
  | .ldrRegDirIdx idx sz a imm => .load .sign a (.mem sz (.dirIdx idx imm))
  | .cmpRegReg a b => .compare a (.reg b)
  | .cmpRegImm a imm => .compare a (.imm imm)
  | .cmpRegInd sz a b => .compare a (.mem sz (.ind b))
  | .cmpRegDir sz a imm => .compare a (.mem sz (.dir imm))
  | .cmpRegIndIdx idx sz a b => .compare a (.mem sz (.indIdx idx b))
  | .cmpRegDirIdx idx sz a imm => .compare a (.mem sz (.dirIdx idx imm))
  | .inRegReg sz a b => .portIn a sz (.reg b)
  | .inRegImm sz a imm => .portIn a sz (.imm imm)
  | .inRegInd sz a b => .portIn a sz (.mem sz (.ind b))
  | .inRegDir sz a imm => .portIn a sz (.mem sz (.dir imm))
  | .inRegIndIdx idx sz a b => .portIn a sz (.mem sz (.indIdx idx b))
  | .inRegDirIdx idx sz a imm => .portIn a sz (.mem sz (.dirIdx idx imm))
  | .outRegReg sz a b => .portOut a sz (.reg b)
  | .outRegImm sz a imm => .portOut a sz (.imm imm)
  | .outRegInd sz a b => .portOut a sz (.mem sz (.ind b))
  | .outRegDir sz a imm => .portOut a sz (.mem sz (.dir imm))
  | .outRegIndIdx idx sz a b => .portOut a sz (.mem sz (.indIdx idx b))
  | .outRegDirIdx idx sz a imm => .portOut a sz (.mem sz (.dirIdx idx imm))
  | .setRegReg sz a b => .setting a sz (.reg b)
  | .setRegImm sz a imm => .setting a sz (.imm imm)
  | .setRegInd sz a b => .setting a sz (.mem sz (.ind b))
  | .setRegDir sz a imm => .setting a sz (.mem sz (.dir imm))
  | .setRegIndIdx idx sz a b => .setting a sz (.mem sz (.indIdx idx b))
  | .setRegDirIdx idx sz a imm => .setting a sz (.mem sz (.dirIdx idx imm))
  | .strRegInd sz a b => .store a sz (.ind b)
  | .strRegDir sz a imm => .store a sz (.dir imm)
  | .strRegIndIdx idx sz a b => .store a sz (.indIdx idx b)
  | .strRegDirIdx idx sz a imm => .store a sz (.dirIdx idx imm)
  | .leaRegInd a b => .address a .b1 (.ind b)
  | .leaRegDir a imm => .address a .b1 (.dir imm)
  | .leaRegIndIdx idx sz a b => .address a sz (.indIdx idx b)
  | .leaRegDirIdx idx sz a imm => .address a sz (.dirIdx idx imm)
  | .notReg a => .unary .not a
  | .negReg a => .unary .neg a
  | .freeReg a => .free a
  | .markReg a => .mark a
  | .popReg sz a => .pop sz a
  | .pushReg sz b => .push sz (.reg b)
  | .pushImm sz imm => .push sz (.imm imm)
  | .callReg b => .call (.reg b)
  | .callImm imm => .call (.imm imm)
  | .jneReg b => .jump .ne (.reg b)
  | .jneImm imm => .jump .ne (.imm imm)
  | .jeReg b => .jump .e (.reg b)
  | .jeImm imm => .jump .e (.imm imm)
  | .jgReg b => .jump .g (.reg b)
  | .jgImm imm => .jump .g (.imm imm)
  | .jgeReg b => .jump .ge (.reg b)
  | .jgeImm imm => .jump .ge (.imm imm)
  | .jlReg b => .jump .l (.reg b)
  | .jlImm imm => .jump .l (.imm imm)
  | .jleReg b => .jump .le (.reg b)
  | .jleImm imm => .jump .le (.imm imm)
  | .jnoReg b => .jump .no (.reg b)
  | .jnoImm imm => .jump .no (.imm imm)
  | .joReg b => .jump .o (.reg b)
  | .joImm imm => .jump .o (.imm imm)
  | .jmpReg b => .jump .always (.reg b)
  | .jmpImm imm => .jump .always (.imm imm)
  | .ret => .ret
  | .sys => .sys
  | .rti => .rti
  | .nop => .nop

end Sys2Proof
end

