-- ==== Sys2Proof/Safety.lean ====
section
/-! DEFINITION. What counts as a good state and a good run, and what an instruction may change, in the terms the
statements use. -/

namespace Sys2Proof.Machine

/-! ### Good states and runs -/

/-- The machine has not stopped in a fault (60_exceptions.md R262). -/
def State.isRunning (s : State) : Bool := s.status == .running

/-- Memory, the Vector Table and the settings are in their canonical forms (logs 8, 9, 10). -/
def State.wf (s : State) : Bool := Memory.wf s.mem && tableWf s.vt && tableWf s.settings

/-- `k` steps answer `t`. -/
def Runs : Nat → State → State → Prop
  | 0, s, t => s = t
  | k + 1, s, t => ∃ u, step s = .next u ∧ Runs k u t

/-- No run of any length from the state ends in a faulted status. -/
def SafeFrom (s : State) : Prop := ∀ k t, Runs k s t → t.status = .running

/-! ### The opcode map as predicates of the first byte -/

/-- The first bytes that 30_encoding.md R95 assigns: 101 of the 256. -/
def assignedFirstBytes : List Byte :=
  [0x02, 0x03, 0x04, 0x05, 0x06, 0x07, 0x08, 0x12, 0x13, 0x14, 0x15, 0x16, 0x17, 0x18, 0x22, 0x23, 0x24, 0x25, 0x26,
    0x27, 0x28, 0x32, 0x33, 0x34, 0x35, 0x36, 0x37, 0x38, 0x42, 0x43, 0x44, 0x45, 0x46, 0x47, 0x48, 0x52, 0x53, 0x54,
    0x55, 0x56, 0x57, 0x58, 0x59] ++
  [0x62, 0x63, 0x64, 0x65, 0x66, 0x67, 0x68, 0x69, 0x78, 0x79, 0xA2, 0xA3, 0xA4, 0xA5, 0xA6, 0xA7, 0xB2, 0xB3, 0xB4,
    0xB5, 0xB6, 0xB7, 0xBA, 0xBB, 0xBC, 0xBD, 0xBE, 0xBF, 0xC2, 0xC3, 0xC4, 0xC5, 0xC6, 0xC7, 0xCA, 0xCB, 0xCC, 0xCD,
    0xCE, 0xCF] ++
  [0xD4, 0xD5, 0xD6, 0xD7, 0xDA, 0xDB, 0xDC, 0xDD, 0xDE, 0xDF, 0xE4, 0xE5, 0xE6, 0xE7, 0xF8, 0xF9, 0xFA, 0xFF]


/-- 30_encoding.md R88: the low bit of the mode is set and the byte is not of the group 1111 1xxx. -/
def hasImmByte (b0 : Byte) : Bool := b0.getLsbD 0 && decide (b0 >>> 3 ≠ 0x1F)


/-- 40_operands.md R126: the first bytes, among those assigned, whose instruction uses the Size code: memory modes
with G = 0, but for LEA without an index; IN, OUT, SET in every mode; POP and PUSH. -/
def usesSizeByte (b0 : Byte) : Bool :=
  (!b0.getLsbD 3 && b0.getLsbD 2 && decide (b0 ≠ 0xE4) && decide (b0 ≠ 0xE5)) ||
  (b0.getLsbD 3 && (b0.getLsbD 2 || b0.getLsbD 1) && decide (b0 >>> 4 ≠ 0xF)) ||
  decide (b0 = 0x48) || decide (b0 = 0x58) || decide (b0 = 0x59)


/-! ### What stays as it was, from state `s` to state `t` -/

/-- Every general register. -/
def SameRegs (s t : State) : Prop := ∀ r, t.reg r = s.reg r

/-- Every general register but one. -/
def SameRegsBut (s t : State) (a : Reg) : Prop := ∀ r, r ≠ a → t.reg r = s.reg r

/-- The three flags. -/
def SameFlags (s t : State) : Prop := t.zf = s.zf ∧ t.sf = s.sf ∧ t.ovf = s.ovf

/-- Every byte of memory. -/
def SameMemory (s t : State) : Prop := ∀ x, readByte t x = readByte s x

/-- Every byte of memory but the `n` bytes from an address up. -/
def SameMemoryBut (s t : State) (addr : Word) (n : Nat) : Prop :=
  ∀ x, (∀ i, i < n → x ≠ byteAddr addr i) → readByte t x = readByte s x

/-- The mode, AllowInterrupts, the Vector Table and the settings. -/
def SameControl (s t : State) : Prop := t.mode = s.mode ∧ t.ai = s.ai ∧ t.vt = s.vt ∧ t.settings = s.settings

/-- The transfers made with the port space and the port inputs still to come. -/
def SamePorts (s t : State) : Prop := t.portTrace = s.portTrace ∧ t.portScript = s.portScript

/-- The status, the configuration and the interrupt requests still to come. -/
def SameRun (s t : State) : Prop := t.status = s.status ∧ t.cfg = s.cfg ∧ t.irqScript = s.irqScript

/-- Everything but the general registers, SP, the flags, pc, memory and the draw counter. -/
def SameSystem (s t : State) : Prop := SameControl s t ∧ SamePorts s t ∧ SameRun s t

/-- An instruction of `3 + len` bytes has written one general register, and pc has gone on; the flags and the draw
counter are not spoken of. -/
def WritesRegister (s t : State) (a : Reg) (v : Word) (len : Nat) : Prop :=
  t.reg a = v ∧ SameRegsBut s t a ∧ t.sp = s.sp ∧ SameMemory s t ∧ SameSystem s t ∧ t.pc = nextPc s len

/-! ### Values in memory and in the flags -/

/-- Byte `i` of the low `2^size` bytes of a value as they lie in memory (20_memory.md R56). -/
def storedByte (bigEndian : Bool) (sz : Size) (v : Word) (i : Nat) : Byte :=
  if bigEndian then (v >>> (8 * (sz.bytes - 1 - i))).setWidth 8 else (v >>> (8 * i)).setWidth 8

/-- Memory holds the low `2^size` bytes of a value at an address. -/
def HoldsAt (t : State) (addr : Word) (sz : Size) (v : Word) : Prop :=
  ∀ i, i < sz.bytes → readByte t (byteAddr addr i) = storedByte t.cfg.dataBigEndian sz v i

/-- The mode that modeOnEntry or modeOnRTI gives in state `s` (60_exceptions.md R283): by the first case of the rule all of
whose tests hold of the settings, otherwise by its last function from mode to mode (log 17). -/
def ModeBy (s : State) (r : ModeRule) (m : Mode) : Prop :=
  let holds (c : ModeCase) : Prop := ∀ q ∈ c.tests, settingValue s q.key &&& q.mask = q.value
  let maps (f : ModeMap) : Prop :=
    (s.mode = .supervisor → m = f.fromSupervisor) ∧ (s.mode = .application → m = f.fromApplication)
  (∀ before c after, r.cases = before ++ c :: after → (∀ b ∈ before, ¬holds b) → holds c → maps c.result) ∧
  ((∀ c ∈ r.cases, ¬holds c) → maps r.otherwise)

/-- A signed value fits in a word (10_state.md R29). -/
def FitsSigned (z : Int) : Prop := -2 ^ 63 ≤ z ∧ z ≤ 2 ^ 63 - 1

/-- The flags after an ALU instruction with result `r`, whose exact signed result is `z` (41_arith_logic.md R141): three
free bits and a new draw (log 11), as they were, or from the result. -/
def AluFlagsRule (s t : State) (r : Word) (z : Int) : Prop :=
  match s.cfg.aluFlags with
  | .unspecified =>
    t.zf = Config.freeFlag s.draws .zf ∧ t.sf = Config.freeFlag s.draws .sf ∧ t.ovf = Config.freeFlag s.draws .ovf ∧
      t.draws = s.draws + 1
  | .preserve => SameFlags s t ∧ t.draws = s.draws
  | .result =>
    (t.zf = true ↔ r = 0) ∧ (t.sf = true ↔ r.toInt < 0) ∧ (t.ovf = true ↔ ¬FitsSigned z) ∧ t.draws = s.draws

/-! ### What an operation may change -/

/-- The general register an operation writes: Operand A, where it writes one (40_operands.md R130). -/
def Operation.destination : Operation → Option Reg
  | .binary _ a _ => some a
  | .unary _ a => some a
  | .compare _ _ => none
  | .load _ a _ => some a
  | .address a _ _ => some a
  | .store _ _ _ => none
  | .push _ _ => none
  | .pop _ a => some a
  | .mark a => some a
  | .free a => some a
  | .call _ => none
  | .jump _ _ => none
  | .ret => none
  | .nop => none
  | .portIn a _ _ => some a
  | .portOut _ _ _ => none
  | .setting _ _ _ => none
  | .sys => none
  | .rti => none

/-- The address and size an operation stores to, where it stores (20_memory.md R60). -/
def Operation.stored (s : State) : Operation → Option (Word × Size)
  | .binary _ _ _ => none
  | .unary _ _ => none
  | .compare _ _ => none
  | .load _ _ _ => none
  | .address _ _ _ => none
  | .store _ sz m => some (ea s sz m, sz)
  | .push sz _ => some (pushAddr s sz, sz)
  | .pop _ _ => none
  | .mark _ => some (pushAddr s systemWord, systemWord)
  | .free _ => none
  | .call _ => some (pushAddr s systemWord, systemWord)
  | .jump _ _ => none
  | .ret => none
  | .nop => none
  | .portIn _ _ _ => none
  | .portOut _ _ _ => none
  | .setting _ _ _ => none
  | .sys => some (pushAddr s systemWord, systemWord)
  | .rti => none

/-- The address and size an operation reads as data, where it reads (20_memory.md R60). -/
def Operation.loaded (s : State) : Operation → Option (Word × Size)
  | .binary _ _ (.mem sz m) => some (ea s sz m, sz)
  | .binary _ _ _ => none
  | .unary _ _ => none
  | .compare _ (.mem sz m) => some (ea s sz m, sz)
  | .compare _ _ => none
  | .load _ _ (.mem sz m) => some (ea s sz m, sz)
  | .load _ _ _ => none
  | .address _ _ _ => none
  | .store _ _ _ => none
  | .push _ _ => none
  | .pop sz _ => some (s.sp, sz)
  | .mark _ => none
  | .free a => some (s.reg a, systemWord)
  | .call _ => none
  | .jump _ _ => none
  | .ret => some (s.sp, systemWord)
  | .nop => none
  | .portIn _ _ (.mem sz m) => some (ea s sz m, sz)
  | .portIn _ _ _ => none
  | .portOut _ _ (.mem sz m) => some (ea s sz m, sz)
  | .portOut _ _ _ => none
  | .setting _ _ (.mem sz m) => some (ea s sz m, sz)
  | .setting _ _ _ => none
  | .sys => none
  | .rti => some (s.sp, systemWord)

/-- The operations that may change the flags (10_state.md R31). -/
def Operation.writesFlags : Operation → Bool
  | .binary _ _ _ => true
  | .unary _ _ => true
  | .compare _ _ => true
  | .setting _ _ _ => true
  | _ => false

/-- The operations that may change SP (10_state.md R27). -/
def Operation.writesSp : Operation → Bool
  | .push _ _ => true
  | .pop _ _ => true
  | .mark _ => true
  | .free _ => true
  | .call _ => true
  | .ret => true
  | .sys => true
  | .rti => true
  | .setting _ _ _ => true
  | _ => false

/-- The operations that may send pc elsewhere than to the following instruction (10_state.md R24). -/
def Operation.transfers : Operation → Bool
  | .call _ => true
  | .jump _ _ => true
  | .ret => true
  | .sys => true
  | .rti => true
  | _ => false

end Sys2Proof.Machine
end

