-- ==== Sys2Proof/Certificates/Slice0/Obligations.lean ====
section
/-! DEFINITION. The statements for the provers. In each, `exec` is the meaning of an instruction and `step` a whole
step; `addInstr a src` and its like (Machine/Forms.lean) are the constructors of one mnemonic in all its modes. -/

open Sys2Proof Sys2Proof.Machine

/-! ### Reset and the invariant of the model -/

/-- 10_state.md R41, 70_reset_and_hazards.md R300: what reset leaves, under every configuration. The values of mode and
AI are the spec's own choice (92_eei_decisions.md D28; log 7). -/
def Obligations.ResetValues : Prop :=
  State.reset = State.boot defaultConfig ∧
  ∀ cfg, (State.boot cfg).pc = cfg.resetPc ∧ (State.boot cfg).mode = .supervisor ∧ (State.boot cfg).ai = false ∧
    (State.boot cfg).status = .running ∧ (State.boot cfg).portTrace = [] ∧ (State.boot cfg).cfg = cfg

/-- The stores of the model are in canonical form right after reset, under every configuration (logs 8, 9, 10). -/
def Obligations.ResetWellFormed : Prop := ∀ cfg, (State.boot cfg).wf = true

/-- Every step, from any state, keeps the stores of the model in canonical form and the parameters as they are (logs 2,
8, 9, 10; 00_scope.md R8, 20_memory.md R50). -/
def Obligations.StepKeepsInvariant : Prop :=
  ∀ s t, s.wf = true → step s = .next t → t.wf = true ∧ t.cfg = s.cfg

/-! ### The encoding -/

/-- 10_state.md R20: sixteen general registers, r0 to r15; a register number is 4 bits, and every 4-bit value names
one register. -/
def Obligations.RegisterNumbers : Prop :=
  (List.range 16).map (fun k => Reg.ofNibble (BitVec.ofNat 4 k)) =
    [.r0, .r1, .r2, .r3, .r4, .r5, .r6, .r7, .r8, .r9, .r10, .r11, .r12, .r13, .r14, .r15] ∧
  (∀ n : Nibble, (Reg.ofNibble n).toNibble = n) ∧ ∀ r : Reg, Reg.ofNibble r.toNibble = r

/-- Every well-formed instruction, encoded and followed by anything, decodes to itself and leaves what follows; under
STRICT_RESERVED too (30_encoding.md R81 to R95, R104). -/
def Obligations.DecodeEncode : Prop :=
  ∀ (strict : Bool) (i : Instr) (rest : List Byte), i.wf = true → decode strict (encode i ++ rest) = .ok (i, rest)

/-- Under STRICT_RESERVED a string of bytes that decodes is the encoding of the instruction it decodes to, which is
well-formed: no other bytes stand for it; and it decodes alike when unused fields are ignored (30_encoding.md R104). -/
def Obligations.StrictDecodeOnlyEncodings : Prop :=
  ∀ (bytes : List Byte) (i : Instr) (rest : List Byte),
    decode true bytes = .ok (i, rest) →
      i.wf = true ∧ bytes = encode i ++ rest ∧ decode false bytes = .ok (i, rest)

/-- What decodes is well-formed, takes its first `3 + ilen` bytes, and decodes the same whatever follows them
(30_encoding.md R80, R88, R106). -/
def Obligations.DecodeLength : Prop :=
  ∀ (strict : Bool) (bytes : List Byte) (i : Instr) (rest : List Byte),
    decode strict bytes = .ok (i, rest) →
      i.wf = true ∧ i.ilen ∈ [0, 1, 2, 4, 8] ∧ bytes.length = 3 + i.ilen + rest.length ∧
      rest = bytes.drop (3 + i.ilen) ∧
      ∀ more, decode strict (bytes.take (3 + i.ilen) ++ more) = .ok (i, more)

/-- 30_encoding.md R97, 60_exceptions.md R260: with unused fields ignored, a base is legal exactly when it is none of: an
unassigned first byte; an immediate wider than a word; a used Size code wider than a word; a Jcc with condition 8
to E. -/
def Obligations.IllegalBases : Prop :=
  ∀ b0 b1 b2 : Byte,
    (∃ h, decodeBase false b0 b1 b2 = .ok h) ↔
      b0 ∈ assignedFirstBytes ∧
      ¬(hasImmByte b0 = true ∧ 3 < (lowNibble b2).toNat) ∧
      ¬(usesSizeByte b0 = true ∧ 3 < (lowNibble b1).toNat) ∧
      ¬((b0 = 0x68 ∨ b0 = 0x69) ∧ 8 ≤ (highNibble b2).toNat ∧ (highNibble b2).toNat ≤ 14)

/-- The check of privilege by the first byte, which a step makes before it fetches the immediate, is the privilege of
the instruction decoded: IN, OUT, SET and RTI (45_system.md R240, 40_operands.md R120 step 4). -/
def Obligations.PrivilegeKnownFromFirstByte : Prop :=
  ∀ (strict : Bool) (b0 b1 b2 : Byte) (rest : List Byte) (r : Instr × List Byte),
    decode strict (b0 :: b1 :: b2 :: rest) = .ok r → privilegedByte b0 = r.1.privileged

/-- Some words written out from the spec's examples: LDR r3, 15; LDR r4, [1947 + r9 * 8]; STRq r2, [r6]; POPq r7;
PUSHq 1947; CALL 1947; JE 1947; JLE r7; RTI; SET r3, r7 (42_load_store.md R171, R173, 43_stack.md R193, R194,
44_control.md R212, R222, R220, 45_system.md R243, R252). -/
def Obligations.ExampleWords : Prop :=
  decode false [0xB3, 0x00, 0x30, 0x0F] = .ok (.ldrRegImm .r3 { size := .b1, value := 15 }, []) ∧
  decode false [0xB7, 0x93, 0x41, 0x07, 0x9B] = .ok (.ldrRegDirIdx .r9 .b8 .r4 { size := .b2, value := 1947 }, []) ∧
  decode false [0xD4, 0x03, 0x26] = .ok (.strRegInd .b8 .r2 .r6, []) ∧
  decode false [0x48, 0x03, 0x70] = .ok (.popReg .b8 .r7, []) ∧
  decode false [0x59, 0x03, 0x01, 0x07, 0x9B] = .ok (.pushImm .b8 { size := .b2, value := 1947 }, []) ∧
  decode false [0x79, 0x00, 0x01, 0x07, 0x9B] = .ok (.callImm { size := .b2, value := 1947 }, []) ∧
  decode false [0x69, 0x00, 0x11, 0x07, 0x9B] = .ok (.jeImm { size := .b2, value := 1947 }, []) ∧
  decode false [0x68, 0x00, 0x57] = .ok (.jleReg .r7, []) ∧
  decode false [0xFA, 0x00, 0x00] = .ok (.rti, []) ∧
  decode false [0xDA, 0x00, 0x37] = .ok (.setRegReg .b1 .r3 .r7, [])

/-! ### Operands and memory -/

/-- Widening keeps the signed or the unsigned value of the low `2^size` bytes; narrowing keeps those bytes
(40_operands.md R127, R129, 00_scope.md R11). -/
def Obligations.WideningValues : Prop :=
  ∀ (sz : Size) (v : Word),
    (widen .zero sz v).toNat = v.toNat % 2 ^ (8 * sz.bytes) ∧
    (widen .sign sz v).toInt = v.toInt.bmod (2 ^ (8 * sz.bytes)) ∧
    truncate sz v = widen .zero sz v

/-- The value of a Source operand in each kind, with the effective address of the four memory modes, and the MemoryFault
of a read that MemMap does not admit (40_operands.md R121, R122, R123, R128, 60_exceptions.md R265); and the value of
the operand of PUSH, as data, and of CALL and Jcc, as an address (R124). -/
def Obligations.OperandValues : Prop :=
  ∀ (s : State) (k : Ext) (b idx : Reg) (imm : Imm) (sz : Size),
    let direct := widen s.cfg.addrImmExt imm.size imm.value
    let offset := s.reg idx * BitVec.ofNat 64 sz.bytes
    let reads (m : MemOperand) (addr : Word) : Prop :=
      (admits s .read addr sz.bytes = true → srcVal s k (.mem sz m) = .ok (widen k sz (loadValue s addr sz))) ∧
      (admits s .read addr sz.bytes = false → srcVal s k (.mem sz m) = .error (.memoryFault addr .read))
    srcVal s k (.reg b) = .ok (s.reg b) ∧ srcVal s k (.imm imm) = .ok (widen k imm.size imm.value) ∧
    reads (.ind b) (s.reg b) ∧ reads (.dir imm) direct ∧ reads (.indIdx idx b) (s.reg b + offset) ∧
    reads (.dirIdx idx imm) (direct + offset) ∧
    ea s sz (.ind b) = s.reg b ∧ ea s sz (.dir imm) = direct ∧ ea s sz (.indIdx idx b) = s.reg b + offset ∧
    ea s sz (.dirIdx idx imm) = direct + offset ∧
    unaryData s (.reg b) = s.reg b ∧ unaryData s (.imm imm) = widen s.cfg.narrowExt imm.size imm.value ∧
    unaryAddr s (.reg b) = s.reg b ∧ unaryAddr s (.imm imm) = direct

/-- MemRead and MemWrite (20_memory.md R55, R56): a value read is made of the bytes at the addresses up from the first, in
the byte order of data, and nothing else; a write puts the low `2^size` bytes of the value there in the same order,
and changes no other byte and nothing else; a read of the same size gives them back. -/
def Obligations.MemoryBytes : Prop :=
  ∀ (s : State) (a : Word) (sz : Size) (v : Word),
    (loadValue s a sz).toNat < 2 ^ (8 * sz.bytes) ∧
    (∀ i, i < sz.bytes → storedByte s.cfg.dataBigEndian sz (loadValue s a sz) i = readByte s (byteAddr a i)) ∧
    HoldsAt (storeValue s a sz v) a sz v ∧ SameMemoryBut s (storeValue s a sz v) a sz.bytes ∧
    loadValue (storeValue s a sz v) a sz = truncate sz v ∧
    storeValue s a sz v = { s with mem := (storeValue s a sz v).mem }

/-! ### Arithmetic, logic and compare -/

/-- ADD, SUB and MUL in every mode (41_arith_logic.md R140, R141, R142, R148, R152): the result modulo 2^64 in the
Destination, the flags by ALU_FLAGS, and nothing else but pc. -/
def Obligations.ArithmeticResults : Prop :=
  ∀ (s : State) (a : Reg) (src : Source), sourceAdmitted s src = true →
    let x := s.reg a
    let y := sourceValue s s.cfg.narrowExt src
    (∃ t, exec (addInstr a src) s = .next t ∧ WritesRegister s t a (x + y) (Source.ilen src) ∧
      AluFlagsRule s t (x + y) (x.toInt + y.toInt)) ∧
    (∃ t, exec (subInstr a src) s = .next t ∧ WritesRegister s t a (x - y) (Source.ilen src) ∧
      AluFlagsRule s t (x - y) (x.toInt - y.toInt)) ∧
    (∃ t, exec (mulInstr a src) s = .next t ∧ WritesRegister s t a (x * y) (Source.ilen src) ∧
      AluFlagsRule s t (x * y) (x.toInt * y.toInt))

/-- AND, OR and XOR in every mode (41_arith_logic.md R140, R141, R143, R151, R153). -/
def Obligations.LogicResults : Prop :=
  ∀ (s : State) (a : Reg) (src : Source), sourceAdmitted s src = true →
    let x := s.reg a
    let y := sourceValue s s.cfg.narrowExt src
    (∃ t, exec (andInstr a src) s = .next t ∧ WritesRegister s t a (x &&& y) (Source.ilen src) ∧
      AluFlagsRule s t (x &&& y) 0) ∧
    (∃ t, exec (orInstr a src) s = .next t ∧ WritesRegister s t a (x ||| y) (Source.ilen src) ∧
      AluFlagsRule s t (x ||| y) 0) ∧
    (∃ t, exec (xorInstr a src) s = .next t ∧ WritesRegister s t a (x ^^^ y) (Source.ilen src) ∧
      AluFlagsRule s t (x ^^^ y) 0)

/-- NEG and NOT (41_arith_logic.md R141, R149, R150). -/
def Obligations.NegNotResults : Prop :=
  ∀ (s : State) (a : Reg),
    (∃ t, exec (.negReg a) s = .next t ∧ WritesRegister s t a (0 - s.reg a) 0 ∧
      AluFlagsRule s t (0 - s.reg a) (-(s.reg a).toInt)) ∧
    (∃ t, exec (.notReg a) s = .next t ∧ WritesRegister s t a (~~~(s.reg a)) 0 ∧ AluFlagsRule s t (~~~(s.reg a)) 0)

/-- DIV in every mode, where a quotient exists and fits (41_arith_logic.md R147, R154): with DIV_SIGNED the remainder
left over is smaller than the divisor and has the sign of the dividend, otherwise the quotient is the unsigned one. -/
def Obligations.DivisionResults : Prop :=
  ∀ (s : State) (a : Reg) (src : Source), sourceAdmitted s src = true →
    let x := s.reg a
    let y := sourceValue s s.cfg.narrowExt src
    y ≠ 0 → ¬(s.cfg.divSigned = true ∧ x.toInt = -2 ^ 63 ∧ y.toInt = -1) →
      ∃ t q, exec (divInstr a src) s = .next t ∧ WritesRegister s t a q (Source.ilen src) ∧ AluFlagsRule s t q 0 ∧
        (s.cfg.divSigned = true → ∃ r : Int, x.toInt = q.toInt * y.toInt + r ∧ |r| < |y.toInt| ∧ 0 ≤ r * x.toInt) ∧
        (s.cfg.divSigned = false → ∃ r : Nat, x.toNat = q.toNat * y.toNat + r ∧ r < y.toNat)

/-- DIV by zero, and the signed quotient that does not fit: DivideError, and nothing else changes (41_arith_logic.md
R147, 60_exceptions.md R264). -/
def Obligations.DivisionFaults : Prop :=
  ∀ (s : State) (a : Reg) (src : Source), sourceAdmitted s src = true →
    let y := sourceValue s s.cfg.narrowExt src
    (y = 0 ∨ (s.cfg.divSigned = true ∧ (s.reg a).toInt = -2 ^ 63 ∧ y.toInt = -1)) →
      exec (divInstr a src) s = .next (s.raise .divideError)

/-- CMP in every mode (41_arith_logic.md R145, 10_state.md R29): the flags of the difference, whatever ALU_FLAGS is, and
nothing else but pc. -/
def Obligations.CompareFlags : Prop :=
  ∀ (s : State) (a : Reg) (src : Source), sourceAdmitted s src = true →
    let x := s.reg a
    let y := sourceValue s s.cfg.narrowExt src
    ∃ t, exec (cmpInstr a src) s = .next t ∧
      (t.zf = true ↔ x = y) ∧ (t.sf = true ↔ (x - y).toInt < 0) ∧ (t.ovf = true ↔ ¬FitsSigned (x.toInt - y.toInt)) ∧
      SameRegs s t ∧ t.sp = s.sp ∧ SameMemory s t ∧ SameSystem s t ∧ t.draws = s.draws ∧
      t.pc = nextPc s (Source.ilen src)

/-! ### Loads, stores and addresses -/

/-- LDU and LDR in every mode (42_load_store.md R170, R171): the Source widened with zeros or with its sign, and nothing
else but pc. -/
def Obligations.LoadResults : Prop :=
  ∀ (s : State) (a : Reg) (src : Source), sourceAdmitted s src = true →
    (∃ t, exec (lduInstr a src) s = .next t ∧ WritesRegister s t a (sourceValue s .zero src) (Source.ilen src) ∧
      SameFlags s t ∧ t.draws = s.draws) ∧
    (∃ t, exec (ldrInstr a src) s = .next t ∧ WritesRegister s t a (sourceValue s .sign src) (Source.ilen src) ∧
      SameFlags s t ∧ t.draws = s.draws)

/-- LEA in its four modes (42_load_store.md R172): the effective address, whether or not MemMap admits it. -/
def Obligations.LoadAddressResults : Prop :=
  ∀ (s : State) (sz : Size) (a : Reg) (m : MemOperand),
    ∃ t, exec (leaInstr sz a m) s = .next t ∧ WritesRegister s t a (ea s sz m) (MemOperand.ilen m) ∧ SameFlags s t ∧
      t.draws = s.draws

/-- STR in its four modes (42_load_store.md R173, 40_operands.md R129): the low bytes of the register lie at the
effective address, and no other byte and no register changes. -/
def Obligations.StoreResults : Prop :=
  ∀ (s : State) (sz : Size) (a : Reg) (m : MemOperand), admits s .write (ea s sz m) sz.bytes = true →
    ∃ t, exec (strInstr sz a m) s = .next t ∧ HoldsAt t (ea s sz m) sz (s.reg a) ∧
      SameMemoryBut s t (ea s sz m) sz.bytes ∧ SameRegs s t ∧ t.sp = s.sp ∧ SameFlags s t ∧ SameSystem s t ∧
      t.draws = s.draws ∧ t.pc = nextPc s (MemOperand.ilen m)

/-- STR, then LDR or LDU of the same size at the same address: the low bytes of the register, widened with their sign or
with zeros; with a whole word the register itself (42_load_store.md R175). -/
def Obligations.StoreThenLoad : Prop :=
  ∀ (s : State) (sz : Size) (a d : Reg) (m : MemOperand), admits s .write (ea s sz m) sz.bytes = true →
    admits s .read (ea s sz m) sz.bytes = true →
    ∃ t u v, exec (strInstr sz a m) s = .next t ∧
      exec (ldrInstr d (.mem sz m)) t = .next u ∧ u.reg d = widen .sign sz (s.reg a) ∧
      exec (lduInstr d (.mem sz m)) t = .next v ∧ v.reg d = widen .zero sz (s.reg a) ∧
      (sz = .b8 → u.reg d = s.reg a ∧ v.reg d = s.reg a)

/-- A store is seen by the next fetch: the bytes STR stores are the instruction bytes fetched from there next
(20_memory.md R68). -/
def Obligations.StoreThenFetch : Prop :=
  ∀ (s : State) (sz : Size) (a : Reg) (m : MemOperand) (i : Nat), admits s .write (ea s sz m) sz.bytes = true →
    i < sz.bytes → admits s .fetch (byteAddr (ea s sz m) i) 1 = true →
    ∃ t, exec (strInstr sz a m) s = .next t ∧
      fetchByte t (byteAddr (ea s sz m) i) = .ok (storedByte s.cfg.dataBigEndian sz (s.reg a) i)

/-! ### The stack -/

/-- PUSH in both modes (43_stack.md R190, R193): SP goes down by the size, and the low bytes of the operand lie there. -/
def Obligations.PushResults : Prop :=
  ∀ (s : State) (sz : Size) (src : UnarySource),
    let addr := s.sp - BitVec.ofNat 64 sz.bytes
    admits s .write addr sz.bytes = true →
    ∃ t, exec (pushInstr sz src) s = .next t ∧ t.sp = addr ∧ HoldsAt t addr sz (unaryData s src) ∧
      SameMemoryBut s t addr sz.bytes ∧ SameRegs s t ∧ SameFlags s t ∧ SameSystem s t ∧ t.draws = s.draws ∧
      t.pc = nextPc s (UnarySource.ilen src)

/-- POP (43_stack.md R191, R194): the item at SP, widened by NARROW_EXT, into the register; SP goes up by the size; the
popped bytes stay in memory. -/
def Obligations.PopResults : Prop :=
  ∀ (s : State) (sz : Size) (a : Reg), admits s .read s.sp sz.bytes = true →
    ∃ t, exec (.popReg sz a) s = .next t ∧ t.reg a = widen s.cfg.narrowExt sz (loadValue s s.sp sz) ∧
      SameRegsBut s t a ∧ t.sp = s.sp + BitVec.ofNat 64 sz.bytes ∧ SameMemory s t ∧ SameFlags s t ∧ SameSystem s t ∧
      t.draws = s.draws ∧ t.pc = nextPc s 0

/-- MARK (43_stack.md R195): the whole register is pushed as one system word, and then holds the new SP. -/
def Obligations.MarkResults : Prop :=
  ∀ (s : State) (a : Reg), admits s .write (s.sp - 8) 8 = true →
    ∃ t, exec (.markReg a) s = .next t ∧ t.sp = s.sp - 8 ∧ t.reg a = s.sp - 8 ∧ SameRegsBut s t a ∧
      HoldsAt t (s.sp - 8) .b8 (s.reg a) ∧ SameMemoryBut s t (s.sp - 8) 8 ∧ SameFlags s t ∧ SameSystem s t ∧
      t.draws = s.draws ∧ t.pc = nextPc s 0

/-- FREE (43_stack.md R196): the system word at the address the register holds into the register, and SP just above
it. -/
def Obligations.FreeResults : Prop :=
  ∀ (s : State) (a : Reg), admits s .read (s.reg a) 8 = true →
    ∃ t, exec (.freeReg a) s = .next t ∧ t.reg a = loadValue s (s.reg a) .b8 ∧ SameRegsBut s t a ∧
      t.sp = s.reg a + 8 ∧ SameMemory s t ∧ SameFlags s t ∧ SameSystem s t ∧ t.draws = s.draws ∧ t.pc = nextPc s 0

/-- PUSH then POP of one size gives the low bytes of the operand, widened, and the old SP (43_stack.md R191, R194). -/
def Obligations.PushThenPop : Prop :=
  ∀ (s : State) (sz : Size) (src : UnarySource) (d : Reg),
    admits s .write (pushAddr s sz) sz.bytes = true → admits s .read (pushAddr s sz) sz.bytes = true →
    ∃ t u, exec (pushInstr sz src) s = .next t ∧ exec (.popReg sz d) t = .next u ∧
      u.reg d = widen s.cfg.narrowExt sz (unaryData s src) ∧ u.sp = s.sp ∧ (sz = .b8 → u.reg d = unaryData s src)

/-- FREE undoes MARK, whatever happened in between, as long as the register still holds the mark and the saved word has
not been overwritten (43_stack.md R196). -/
def Obligations.FreeUndoesMark : Prop :=
  ∀ (s t u : State) (a : Reg), admits s .write (s.sp - 8) 8 = true → exec (.markReg a) s = .next t →
    u.reg a = t.reg a → (∀ i, i < 8 → readByte u (byteAddr (t.reg a) i) = readByte t (byteAddr (t.reg a) i)) →
    u.cfg = s.cfg → admits u .read (u.reg a) 8 = true →
    ∃ w, exec (.freeReg a) u = .next w ∧ w.reg a = s.reg a ∧ w.sp = s.sp

/-! ### Control transfer -/

/-- CALL in both modes (44_control.md R210, R212): the address of the following instruction is pushed as one system
word, and pc is the register or the widened immediate. -/
def Obligations.CallResults : Prop :=
  ∀ (s : State) (target : UnarySource), admits s .write (s.sp - 8) 8 = true →
    ∃ t, exec (callInstr target) s = .next t ∧ t.pc = unaryAddr s target ∧ t.sp = s.sp - 8 ∧
      HoldsAt t (s.sp - 8) .b8 (s.pc + 3 + BitVec.ofNat 64 (UnarySource.ilen target)) ∧
      SameMemoryBut s t (s.sp - 8) 8 ∧ SameRegs s t ∧ SameFlags s t ∧ SameSystem s t ∧ t.draws = s.draws

/-- RET (44_control.md R230): one system word popped into pc. -/
def Obligations.ReturnResults : Prop :=
  ∀ s : State, admits s .read s.sp 8 = true →
    ∃ t, exec .ret s = .next t ∧ t.pc = loadValue s s.sp .b8 ∧ t.sp = s.sp + 8 ∧ SameMemory s t ∧ SameRegs s t ∧
      SameFlags s t ∧ SameSystem s t ∧ t.draws = s.draws

/-- RET goes back to the instruction after the CALL, whatever the subroutine did, as long as SP is where CALL left it
and the return address has not been overwritten (44_control.md R212, R230). -/
def Obligations.ReturnAfterCall : Prop :=
  ∀ (s t u : State) (target : UnarySource), admits s .write (s.sp - 8) 8 = true →
    exec (callInstr target) s = .next t → u.sp = t.sp →
    (∀ i, i < 8 → readByte u (byteAddr t.sp i) = readByte t (byteAddr t.sp i)) → u.cfg = s.cfg →
    admits u .read u.sp 8 = true →
    ∃ w, exec .ret u = .next w ∧ w.pc = nextPc s (UnarySource.ilen target) ∧ w.sp = s.sp

/-- Jcc, all nine conditions in both modes (44_control.md R210, R214, R216, R220): to the target if the condition of
the table holds, otherwise on; nothing but pc changes. JLE is by the parameter JLE_INCLUDES_EQUAL (log 12). -/
def Obligations.JumpResults : Prop :=
  ∀ (s : State) (target : UnarySource),
    let go (c : Cond) (taken : Bool) : Prop :=
      exec (jccInstr c target) s =
        .next (s.setPc (if taken then unaryAddr s target else nextPc s (UnarySource.ilen target)))
    go .ne (!s.zf) ∧ go .e s.zf ∧ go .g (!s.sf && !s.zf) ∧ go .ge (!s.sf) ∧ go .l (s.sf && !s.zf) ∧
    go .le (if s.cfg.jleIncludesEqual then s.sf || s.zf else s.sf) ∧ go .no (!s.ovf) ∧ go .o s.ovf ∧ go .always true

/-- 44_control.md R221: the encodings of JNE, when it is taken, when it is taken after CMP, and the example. -/
def Obligations.JumpNotEqual : Prop :=
  (∀ (b : Reg), encode (.jneReg b) = [0x68, 0x00, byteOf 0 b.toNibble]) ∧
  (∀ (imm : Imm), encode (.jneImm imm) = [0x69, 0x00, byteOf 0 imm.size.toNibble] ++ imm.encode) ∧
  encode (.jneImm { size := .b2, value := 1947 }) = [0x69, 0x00, 0x01, 0x07, 0x9B] ∧
  (∀ (s : State) (target : UnarySource),
    exec (jccInstr .ne target) s =
      .next (s.setPc (if s.zf = false then unaryAddr s target else nextPc s (UnarySource.ilen target)))) ∧
  (∀ (s t : State) (a : Reg) (src : Source) (target : UnarySource), sourceAdmitted s src = true →
    exec (cmpInstr a src) s = .next t →
    exec (jccInstr .ne target) t =
      .next (t.setPc (if s.reg a ≠ sourceValue s s.cfg.narrowExt src then unaryAddr t target
        else nextPc t (UnarySource.ilen target)))) ∧
  (∀ s : State, s.pc = 0x200 → ∃ t, exec (.jneImm { size := .b2, value := 1947 }) s = .next t ∧
    (s.zf = false → t.pc = 0x079B) ∧ (s.zf = true → t.pc = 0x205))

/-- 44_control.md R222: the code of JE, when it is taken, when it is taken after CMP, and the example. -/
def Obligations.JumpEqual : Prop :=
  Cond.toNibble .e = 1 ∧
  encode (.jeImm { size := .b2, value := 1947 }) = [0x69, 0x00, 0x11, 0x07, 0x9B] ∧
  (∀ (s : State) (target : UnarySource),
    exec (jccInstr .e target) s =
      .next (s.setPc (if s.zf = true then unaryAddr s target else nextPc s (UnarySource.ilen target)))) ∧
  (∀ (s t : State) (a : Reg) (src : Source) (target : UnarySource), sourceAdmitted s src = true →
    exec (cmpInstr a src) s = .next t →
    exec (jccInstr .e target) t =
      .next (t.setPc (if s.reg a = sourceValue s s.cfg.narrowExt src then unaryAddr t target
        else nextPc t (UnarySource.ilen target))))

/-- 44_control.md R223, R224: JG and JGE after a CMP whose difference fits in a word: the signed order of the operands;
their codes and examples. -/
def Obligations.JumpGreater : Prop :=
  Cond.toNibble .g = 2 ∧ encode (.jgReg .r7) = [0x68, 0x00, 0x27] ∧
  encode (.jgImm { size := .b2, value := 1947 }) = [0x69, 0x00, 0x21, 0x07, 0x9B] ∧
  Cond.toNibble .ge = 3 ∧ encode (.jgeImm { size := .b2, value := 1947 }) = [0x69, 0x00, 0x31, 0x07, 0x9B] ∧
  (∀ (s : State) (target : UnarySource),
    exec (jccInstr .g target) s =
      .next (s.setPc (if s.sf = false ∧ s.zf = false then unaryAddr s target
        else nextPc s (UnarySource.ilen target))) ∧
    exec (jccInstr .ge target) s =
      .next (s.setPc (if s.sf = false then unaryAddr s target else nextPc s (UnarySource.ilen target)))) ∧
  (∀ (s t : State) (a : Reg) (src : Source) (target : UnarySource), sourceAdmitted s src = true →
    exec (cmpInstr a src) s = .next t → (t.zf = true → t.sf = false) ∧
    (t.ovf = false →
      exec (jccInstr .g target) t =
        .next (t.setPc (if (sourceValue s s.cfg.narrowExt src).toInt < (s.reg a).toInt then unaryAddr t target
          else nextPc t (UnarySource.ilen target))) ∧
      exec (jccInstr .ge target) t =
        .next (t.setPc (if (sourceValue s s.cfg.narrowExt src).toInt ≤ (s.reg a).toInt then unaryAddr t target
          else nextPc t (UnarySource.ilen target)))))

/-- 44_control.md R225: JL; after any CMP it is the same as SF = 1, and after a CMP whose difference fits in a word the
signed order of the operands; its code and example. -/
def Obligations.JumpLess : Prop :=
  Cond.toNibble .l = 4 ∧ encode (.jlImm { size := .b2, value := 1947 }) = [0x69, 0x00, 0x41, 0x07, 0x9B] ∧
  (∀ (s : State) (target : UnarySource),
    exec (jccInstr .l target) s =
      .next (s.setPc (if s.sf = true ∧ s.zf = false then unaryAddr s target
        else nextPc s (UnarySource.ilen target)))) ∧
  (∀ (s t : State) (a : Reg) (src : Source) (target : UnarySource), sourceAdmitted s src = true →
    exec (cmpInstr a src) s = .next t → (t.sf = true → t.zf = false) ∧
    exec (jccInstr .l target) t =
      .next (t.setPc (if t.sf = true then unaryAddr t target else nextPc t (UnarySource.ilen target))) ∧
    (t.ovf = false →
      exec (jccInstr .l target) t =
        .next (t.setPc (if (s.reg a).toInt < (sourceValue s s.cfg.narrowExt src).toInt then unaryAddr t target
          else nextPc t (UnarySource.ilen target)))))

/-- 44_control.md R226, R227: JNO and JO; after CMP, JO is taken exactly when the signed difference does not fit in a
word; the codes and examples. Of R227 the sentence about ALU_FLAGS = unspecified is not stated. -/
def Obligations.JumpOverflow : Prop :=
  Cond.toNibble .no = 6 ∧ encode (.jnoImm { size := .b2, value := 1947 }) = [0x69, 0x00, 0x61, 0x07, 0x9B] ∧
  Cond.toNibble .o = 7 ∧ encode (.joReg .r2) = [0x68, 0x00, 0x72] ∧
  (∀ (s : State) (target : UnarySource),
    exec (jccInstr .no target) s =
      .next (s.setPc (if s.ovf = false then unaryAddr s target else nextPc s (UnarySource.ilen target))) ∧
    exec (jccInstr .o target) s =
      .next (s.setPc (if s.ovf = true then unaryAddr s target else nextPc s (UnarySource.ilen target)))) ∧
  (∀ (s t : State) (a : Reg) (src : Source) (target : UnarySource), sourceAdmitted s src = true →
    exec (cmpInstr a src) s = .next t →
    (FitsSigned ((s.reg a).toInt - (sourceValue s s.cfg.narrowExt src).toInt) →
      exec (jccInstr .o target) t = .next (t.setPc (nextPc t (UnarySource.ilen target)))) ∧
    (¬FitsSigned ((s.reg a).toInt - (sourceValue s s.cfg.narrowExt src).toInt) →
      exec (jccInstr .o target) t = .next (t.setPc (unaryAddr t target))))

/-- 44_control.md R232: NOP: its encoding, its length of three bytes although the low bit of its first byte is set, and
that only pc moves; with unused fields ignored (STRICT_RESERVED = false, 30_encoding.md R104, log 29) it is one whatever
its other bytes hold, so that memory filled with FF is a run of NOPs, and the only exception is the MemoryFault of its
fetch. The step (40_operands.md R120) leaves the state with its interrupt sample taken, which is the model's choice
(logs 13, 20). -/
def Obligations.NoOperation : Prop :=
  encode .nop = [0xFF, 0x00, 0x00] ∧ Instr.ilen .nop = 0 ∧
  (∀ s : State, exec .nop s = .next { s with pc := s.pc + 3 }) ∧
  (∀ (b1 b2 : Byte) (rest : List Byte), decode false (0xFF :: b1 :: b2 :: rest) = .ok (.nop, rest)) ∧
  (∀ s : State, s.status = .running → (s.ai = false ∨ irqRequest s = none) → s.cfg.strictReserved = false →
    readBytes s s.pc 3 = [0xFF, 0xFF, 0xFF] →
    (admitsFetch s s.pc 3 = true → step s = .next { sampled s with pc := s.pc + 3 }) ∧
    (admitsFetch s s.pc 3 = false → ∃ a, step s = .next ((sampled s).raise (.memoryFault a .fetch))))

/-! ### The system instructions, privilege, traps and interrupts -/

/-- IN in every mode, in supervisor mode (45_system.md R246): the register holds the widened value of one port read of
`2^size` bytes from the port that the Source operand names. That value is the low bytes of the next input supplied,
where one is supplied, which the read consumes; otherwise it is free (log 14). That the read is recorded in the trace is
the model's choice: the spec asks it of outputs only (log 14). -/
def Obligations.InputResults : Prop :=
  ∀ (s : State) (sz : Size) (a : Reg) (src : SizedSource), s.mode = .supervisor →
    sourceAdmitted s (src.withSize sz) = true →
    let port := sourceValue s s.cfg.addrImmExt (src.withSize sz)
    let d := portInput s port sz
    (∀ v later, s.portScript = v :: later → d = truncate sz v) ∧ truncate sz d = d ∧
    ∃ t, exec (inInstr sz a src) s = .next t ∧
      t.portTrace = s.portTrace ++ [.read port sz.bytes d] ∧ t.portScript = s.portScript.tail ∧
      t.reg a = widen s.cfg.narrowExt sz d ∧ SameRegsBut s t a ∧ t.sp = s.sp ∧ SameMemory s t ∧ SameFlags s t ∧
      SameControl s t ∧ SameRun s t ∧ t.pc = nextPc s (Source.ilen (src.withSize sz))

/-- OUT in every mode, in supervisor mode (45_system.md R249): one transfer of `2^size` bytes to the port whose number
the register in Operand A holds, with the low bytes of the Source; nothing else but pc changes. -/
def Obligations.OutputResults : Prop :=
  ∀ (s : State) (sz : Size) (a : Reg) (src : SizedSource), s.mode = .supervisor →
    sourceAdmitted s (src.withSize sz) = true →
    ∃ t, exec (outInstr sz a src) s = .next t ∧
      t.portTrace = s.portTrace ++
        [.write (s.reg a) sz.bytes (truncate sz (sourceValue s s.cfg.narrowExt (src.withSize sz)))] ∧
      t.portScript = s.portScript ∧ SameRegs s t ∧ t.sp = s.sp ∧ SameMemory s t ∧ SameFlags s t ∧ SameControl s t ∧
      SameRun s t ∧ t.draws = s.draws ∧ t.pc = nextPc s (Source.ilen (src.withSize sz))

/-- SET in every mode, in supervisor mode (45_system.md R252): the changes SetEffect makes for the key, the low
`2^size` bytes of the value (40_operands.md R129, log 40) and the size, and pc goes on; no general register, no byte of
memory and no port is touched. That pc always goes on, and that the changes are a list made in order, is the model's
reading (log 15). Each change writes the one thing it names, SP, a flag, the mode, AI, one entry of the Vector Table or
one setting, and nothing else (10_state.md R35, R36). -/
def Obligations.SetResults : Prop :=
  (∀ (s : State) (sz : Size) (a : Reg) (src : SizedSource), s.mode = .supervisor →
    sourceAdmitted s (src.withSize sz) = true →
    ∃ t, exec (setInstr sz a src) s = .next t ∧
      t = (applySettings s (Config.setEffect s (s.reg a)
        (truncate sz (sourceValue s s.cfg.narrowExt (src.withSize sz))) sz.bytes)).setPc
          (nextPc s (Source.ilen (src.withSize sz))) ∧
      SameRegs s t ∧ SameMemory s t ∧ SamePorts s t ∧ SameRun s t ∧ t.draws = s.draws) ∧
  ∀ s : State,
    applySettings s [] = s ∧
    (∀ c later, applySettings s (c :: later) = applySettings (applySetting s c) later) ∧
    (∀ v, applySetting s (.sp v) = { s with sp := v }) ∧
    (∀ b, applySetting s (.flag .zf b) = { s with zf := b }) ∧
    (∀ b, applySetting s (.flag .sf b) = { s with sf := b }) ∧
    (∀ b, applySetting s (.flag .ovf b) = { s with ovf := b }) ∧
    (∀ m, applySetting s (.mode m) = { s with mode := m }) ∧
    (∀ b, applySetting s (.ai b) = { s with ai := b }) ∧
    (∀ k v, ∃ vt, applySetting s (.vector k v) = { s with vt := vt } ∧
      ∀ j, vectorEntry { s with vt := vt } j = if j = k then v else vectorEntry s j) ∧
    (∀ key v, ∃ settings, applySetting s (.setting key v) = { s with settings := settings } ∧
      ∀ q, settingValue { s with settings := settings } q = if q = key then v else settingValue s q)

/-- The four privileged instructions in application mode: PrivilegeViolation with the pc of the instruction, before any
operand is read, and nothing else changes (45_system.md R240, 60_exceptions.md R261, R281). -/
def Obligations.PrivilegeViolations : Prop :=
  ∀ (i : Instr) (s : State), i.privileged = true → s.mode = .application →
    exec i s = .next (s.raise (.privilegeViolation s.pc))

/-- SYS in either mode (45_system.md R241, 60_exceptions.md R277): the address of the following instruction is pushed,
the mode becomes what modeOnEntry makes of it, and pc is the entry of the Vector Table for applications. AI is left
alone (92_eei_decisions.md D36). -/
def Obligations.SystemCall : Prop :=
  ∀ s : State, admits s .write (s.sp - 8) 8 = true →
    ∃ t, exec .sys s = .next t ∧ t.pc = vectorEntry s s.cfg.applicationIndex ∧ t.sp = s.sp - 8 ∧
      HoldsAt t (s.sp - 8) .b8 (s.pc + 3) ∧ SameMemoryBut s t (s.sp - 8) 8 ∧
      ModeBy s s.cfg.modeOnEntry t.mode ∧
      t.ai = s.ai ∧ t.vt = s.vt ∧ t.settings = s.settings ∧ SameRegs s t ∧ SameFlags s t ∧ SamePorts s t ∧
      SameRun s t ∧ t.draws = s.draws

/-- RTI in supervisor mode (45_system.md R243): one system word popped into pc, AI set whatever it was, the mode becomes
what modeOnRTI makes of it, and nothing else is restored. -/
def Obligations.ReturnFromInterrupt : Prop :=
  ∀ s : State, s.mode = .supervisor → admits s .read s.sp 8 = true →
    ∃ t, exec .rti s = .next t ∧ t.pc = loadValue s s.sp .b8 ∧ t.sp = s.sp + 8 ∧ t.ai = true ∧
      ModeBy s s.cfg.modeOnRti t.mode ∧ t.vt = s.vt ∧ t.settings = s.settings ∧ SameMemory s t ∧
      SameRegs s t ∧ SameFlags s t ∧ SamePorts s t ∧ SameRun s t ∧ t.draws = s.draws

/-- An interrupt is accepted exactly while AI is true, whatever the mode (60_exceptions.md R270, R271, R272): pc is
pushed, AI cleared, the mode becomes what modeOnEntry makes of it (log 17), pc is the entry of the request, and the
instruction at pc is not executed. Where MemMap refuses the push the machine faults and nothing else changes (R265,
R262), but for the interrupt sample taken, whose place in the state is the model's choice (logs 13, 20). -/
def Obligations.InterruptAccepted : Prop :=
  ∀ (s : State) (k : Nat), s.status = .running → s.ai = true → irqRequest s = some k →
    (admits s .write (s.sp - 8) 8 = true →
      ∃ t, step s = .next t ∧ t.pc = vectorEntry s k ∧ t.ai = false ∧ t.sp = s.sp - 8 ∧
        HoldsAt t (s.sp - 8) .b8 s.pc ∧ SameMemoryBut s t (s.sp - 8) 8 ∧ ModeBy s s.cfg.modeOnEntry t.mode ∧
        t.vt = s.vt ∧ t.settings = s.settings ∧ SameRegs s t ∧ SameFlags s t ∧ SamePorts s t ∧
        t.status = .running ∧ t.cfg = s.cfg) ∧
    (admits s .write (s.sp - 8) 8 = false →
      step s = .next ((sampled s).raise (.memoryFault (s.sp - 8) .write)))

/-- A request while AI is false has no effect on the core: the step is the same whatever the request was (60_exceptions.md
R271). -/
def Obligations.InterruptIgnored : Prop :=
  ∀ (s : State) (r r' : Option Nat) (later : List (Option Nat)), s.ai = false →
    step { s with irqScript := r :: later } = step { s with irqScript := r' :: later }

/-- Interrupt entry, then RTI with SP where entry left it and the saved pc not overwritten: the interrupted
code goes on where it was, with the old SP, and interrupts are allowed again (60_exceptions.md R275, R276). -/
def Obligations.ReturnAfterInterrupt : Prop :=
  ∀ (s t u : State) (k : Nat), s.status = .running → s.ai = true → irqRequest s = some k →
    admits s .write (s.sp - 8) 8 = true → step s = .next t → u.sp = t.sp →
    (∀ i, i < 8 → readByte u (byteAddr t.sp i) = readByte t (byteAddr t.sp i)) → u.cfg = s.cfg →
    u.mode = .supervisor → admits u .read u.sp 8 = true →
    ∃ w, exec .rti u = .next w ∧ w.pc = s.pc ∧ w.sp = s.sp ∧ w.ai = true

/-! ### The step, faults, and what holds of every instruction -/

/-- A step runs the decoded instruction: where no interrupt is accepted and the bytes at pc, all of which MemMap admits,
are those of an instruction, the step is the meaning of that instruction, on the state with one interrupt
sample taken (logs 13, 20), which is the state itself while AI is false and no request is supplied (40_operands.md
R120). -/
def Obligations.StepRunsDecoded : Prop :=
  ∀ (s : State) (i : Instr), s.status = .running → (s.ai = false ∨ irqRequest s = none) →
    decode s.cfg.strictReserved (readBytes s s.pc (3 + i.ilen)) = .ok (i, []) →
    admitsFetch s s.pc (3 + i.ilen) = true →
    step s = exec i (sampled s) ∧ (s.ai = false → s.irqScript = [] → step s = exec i s)

/-- The faults of fetching and decoding, in their order (60_exceptions.md R260, R265, R274): the first byte of the base
that MemMap does not admit; then IllegalInstruction with pc and the three bytes; then, for a privileged
instruction in application mode, PrivilegeViolation without looking at the immediate; then the first byte of the
immediate that MemMap does not admit. Nothing else changes but for the interrupt sample: that the draw and the supplied
request it consumed stand in a step that faults is the model's choice (log 20). -/
def Obligations.FetchFaults : Prop :=
  ∀ s : State, s.status = .running → (s.ai = false ∨ irqRequest s = none) →
    (∀ i, i < 3 → (∀ j, j < i → admits s .fetch (byteAddr s.pc j) 1 = true) →
      admits s .fetch (byteAddr s.pc i) 1 = false →
      step s = .next ((sampled s).raise (.memoryFault (byteAddr s.pc i) .fetch))) ∧
    (admitsFetch s s.pc 3 = true →
      let b0 := readByte s s.pc
      let b1 := readByte s (s.pc + 1)
      let b2 := readByte s (s.pc + 2)
      (∀ e, decodeBase s.cfg.strictReserved b0 b1 b2 = .error e →
        step s = .next ((sampled s).raise (.illegalInstruction s.pc b0 b1 b2))) ∧
      (∀ h, decodeBase s.cfg.strictReserved b0 b1 b2 = .ok h →
        (s.mode = .application → privilegedByte b0 = true →
          step s = .next ((sampled s).raise (.privilegeViolation s.pc))) ∧
        (¬(s.mode = .application ∧ privilegedByte b0 = true) →
          ∀ i, i < h.ilen → (∀ j, j < i → admits s .fetch (byteAddr s.pc (3 + j)) 1 = true) →
            admits s .fetch (byteAddr s.pc (3 + i)) 1 = false →
            step s = .next ((sampled s).raise (.memoryFault (byteAddr s.pc (3 + i)) .fetch)))))

/-- A data or stack access that MemMap does not admit, of an instruction that may run in this mode: MemoryFault with the
address computed, and nothing else changes (60_exceptions.md R265, R267). MemMap is the list of what it refuses (log
18): an access of `n` bytes is admitted exactly when no hole of its kind without a width covers any of its bytes, and none
of width `n` covers its address (20_memory.md R51). -/
def Obligations.DataFaults : Prop :=
  (∀ (s : State) (kind : AccessKind) (addr : Word) (n : Nat),
    admits s kind addr n = true ↔ ∀ h ∈ s.cfg.holes, h.kind = kind →
      (h.width = none → ∀ i, i < n →
        ¬(h.base ≤ (addr + BitVec.ofNat 64 i).toNat ∧ (addr + BitVec.ofNat 64 i).toNat < h.base + h.size)) ∧
      (h.width = some n → ¬(h.base ≤ addr.toNat ∧ addr.toNat < h.base + h.size))) ∧
  ∀ (i : Instr) (s : State) (addr : Word) (sz : Size),
    (Operation.loaded s i.operation = some (addr, sz) → admits s .read addr sz.bytes = false →
      ¬(i.privileged = true ∧ s.mode = .application) → exec i s = .next (s.raise (.memoryFault addr .read))) ∧
    (Operation.stored s i.operation = some (addr, sz) → admits s .write addr sz.bytes = false →
      exec i s = .next (s.raise (.memoryFault addr .write)))

/-- Faults are precise, and nothing is refused: every instruction, from any running state, answers a next state that is
running, or is the state before it with only the fault recorded; so does every step, but for the interrupt sample it
takes, which stands in a step that faults by the model's choice (log 20); and a faulted machine takes no further step
(60_exceptions.md R262, R267). -/
def Obligations.PreciseFaults : Prop :=
  ∀ s : State,
    (s.status = .running → ∀ i : Instr, ∃ t, exec i s = .next t ∧ (t.status = .running ∨ ∃ f, t = s.raise f)) ∧
    (s.status = .running → ∃ t, step s = .next t ∧ (t.status = .running ∨ ∃ f, t = (sampled s).raise f)) ∧
    (∀ f, s.status = .faulted f → step s = .fault f)

/-- With every access admitted no memory fault occurs: there is no alignment, stack or protection fault (60_exceptions.md
R265, R266, 20_memory.md R58). -/
def Obligations.NoMemoryFaultByDefault : Prop :=
  ∀ (s t : State) (addr : Word) (kind : AccessKind), s.cfg.holes = [] → s.status = .running → step s = .next t →
    t.status ≠ .faulted (.memoryFault addr kind)

/-- What any instruction may change of the registers: of the general registers only its destination (40_operands.md
R130), and SP only if it is one that uses it (10_state.md R27). -/
def Obligations.RegisterFrame : Prop :=
  ∀ (i : Instr) (s t : State), exec i s = .next t →
    (∀ r, Operation.destination i.operation ≠ some r → t.reg r = s.reg r) ∧
    (Operation.writesSp i.operation = false → t.sp = s.sp)

/-- What any instruction may change of memory: the bytes at the address its operation stores to, and none if it stores
nothing (20_memory.md R60, 42_load_store.md R175). -/
def Obligations.MemoryFrame : Prop :=
  ∀ (i : Instr) (s t : State), exec i s = .next t →
    (Operation.stored s i.operation = none → SameMemory s t) ∧
    ∀ addr sz, Operation.stored s i.operation = some (addr, sz) → SameMemoryBut s t addr sz.bytes

/-- Who writes the flags: the nine ALU instructions (not under ALU_FLAGS = preserve), CMP, and SET (10_state.md R31). -/
def Obligations.FlagWriters : Prop :=
  ∀ (i : Instr) (s t : State), exec i s = .next t →
    (Operation.writesFlags i.operation = false → SameFlags s t) ∧
    (∀ op a src, i.operation = .binary op a src → s.cfg.aluFlags = .preserve → SameFlags s t) ∧
    (∀ op a, i.operation = .unary op a → s.cfg.aluFlags = .preserve → SameFlags s t)

/-- An instruction that is no transfer of control and does not fault goes on to the following instruction (10_state.md
R24, 30_encoding.md R88). -/
def Obligations.FallThrough : Prop :=
  ∀ (i : Instr) (s t : State), s.status = .running → exec i s = .next t → t.status = .running →
    Operation.transfers i.operation = false → t.pc = s.pc + 3 + BitVec.ofNat 64 i.ilen

/-- Who changes the control state: the mode only SYS, RTI and SET; AI only RTI and SET; the Vector Table and the
settings only SET (10_state.md R34, R35, 60_exceptions.md R283). -/
def Obligations.ControlWriters : Prop :=
  ∀ (i : Instr) (s t : State), exec i s = .next t → (∀ a sz src, i.operation ≠ .setting a sz src) →
    t.vt = s.vt ∧ t.settings = s.settings ∧ (i ≠ .rti → t.ai = s.ai) ∧ (i ≠ .rti → i ≠ .sys → t.mode = s.mode)

/-- Application mode is confined: no step from it makes a port transfer or changes the Vector Table or the settings, AI
can only be cleared, and only through an accepted interrupt (60_exceptions.md R281). -/
def Obligations.ApplicationConfined : Prop :=
  ∀ s t : State, s.mode = .application → step s = .next t →
    SamePorts s t ∧ t.vt = s.vt ∧ t.settings = s.settings ∧
    (t.ai = s.ai ∨ t.ai = false ∧ ∃ k, irqRequest s = some k)
end

