-- ==== Sys2Proof/Laws/State.lean ====
section
/-! SUPPORT. One lemma for each field after each update of State. -/

namespace Sys2Proof.Machine

/-- Reading a register file after a write. -/
theorem Regs.get_set (g : Regs) (r r' : Reg) (v : Word) :
    (g.set r v).get r' = if r = r' then v else g.get r' := by
  cases r <;> cases r' <;> rfl

/-- Reading a register after a write to one. -/
@[simp] theorem State.reg_setReg (s : State) (r r' : Reg) (v : Word) :
    (s.setReg r v).reg r' = if r = r' then v else s.reg r' := Regs.get_set _ _ _ _

/-! ### setReg -/

@[simp] theorem State.regs_setReg (s : State) (r : Reg) (v : Word) : (s.setReg r v).regs = s.regs.set r v := rfl
@[simp] theorem State.pc_setReg (s : State) (r : Reg) (v : Word) : (s.setReg r v).pc = s.pc := rfl
@[simp] theorem State.sp_setReg (s : State) (r : Reg) (v : Word) : (s.setReg r v).sp = s.sp := rfl
@[simp] theorem State.zf_setReg (s : State) (r : Reg) (v : Word) : (s.setReg r v).zf = s.zf := rfl
@[simp] theorem State.sf_setReg (s : State) (r : Reg) (v : Word) : (s.setReg r v).sf = s.sf := rfl
@[simp] theorem State.ovf_setReg (s : State) (r : Reg) (v : Word) : (s.setReg r v).ovf = s.ovf := rfl
@[simp] theorem State.mode_setReg (s : State) (r : Reg) (v : Word) : (s.setReg r v).mode = s.mode := rfl
@[simp] theorem State.ai_setReg (s : State) (r : Reg) (v : Word) : (s.setReg r v).ai = s.ai := rfl
@[simp] theorem State.vt_setReg (s : State) (r : Reg) (v : Word) : (s.setReg r v).vt = s.vt := rfl
@[simp] theorem State.settings_setReg (s : State) (r : Reg) (v : Word) : (s.setReg r v).settings = s.settings := rfl
@[simp] theorem State.mem_setReg (s : State) (r : Reg) (v : Word) : (s.setReg r v).mem = s.mem := rfl
@[simp] theorem State.status_setReg (s : State) (r : Reg) (v : Word) : (s.setReg r v).status = s.status := rfl
@[simp] theorem State.portTrace_setReg (s : State) (r : Reg) (v : Word) : (s.setReg r v).portTrace = s.portTrace := rfl
@[simp] theorem State.irqScript_setReg (s : State) (r : Reg) (v : Word) : (s.setReg r v).irqScript = s.irqScript := rfl
@[simp] theorem State.portScript_setReg (s : State) (r : Reg) (v : Word) : (s.setReg r v).portScript = s.portScript := rfl
@[simp] theorem State.draws_setReg (s : State) (r : Reg) (v : Word) : (s.setReg r v).draws = s.draws := rfl
@[simp] theorem State.cfg_setReg (s : State) (r : Reg) (v : Word) : (s.setReg r v).cfg = s.cfg := rfl

/-! ### setPc -/

@[simp] theorem State.regs_setPc (s : State) (v : Word) : (s.setPc v).regs = s.regs := rfl
@[simp] theorem State.pc_setPc (s : State) (v : Word) : (s.setPc v).pc = v := rfl
@[simp] theorem State.sp_setPc (s : State) (v : Word) : (s.setPc v).sp = s.sp := rfl
@[simp] theorem State.zf_setPc (s : State) (v : Word) : (s.setPc v).zf = s.zf := rfl
@[simp] theorem State.sf_setPc (s : State) (v : Word) : (s.setPc v).sf = s.sf := rfl
@[simp] theorem State.ovf_setPc (s : State) (v : Word) : (s.setPc v).ovf = s.ovf := rfl
@[simp] theorem State.mode_setPc (s : State) (v : Word) : (s.setPc v).mode = s.mode := rfl
@[simp] theorem State.ai_setPc (s : State) (v : Word) : (s.setPc v).ai = s.ai := rfl
@[simp] theorem State.vt_setPc (s : State) (v : Word) : (s.setPc v).vt = s.vt := rfl
@[simp] theorem State.settings_setPc (s : State) (v : Word) : (s.setPc v).settings = s.settings := rfl
@[simp] theorem State.mem_setPc (s : State) (v : Word) : (s.setPc v).mem = s.mem := rfl
@[simp] theorem State.status_setPc (s : State) (v : Word) : (s.setPc v).status = s.status := rfl
@[simp] theorem State.portTrace_setPc (s : State) (v : Word) : (s.setPc v).portTrace = s.portTrace := rfl
@[simp] theorem State.irqScript_setPc (s : State) (v : Word) : (s.setPc v).irqScript = s.irqScript := rfl
@[simp] theorem State.portScript_setPc (s : State) (v : Word) : (s.setPc v).portScript = s.portScript := rfl
@[simp] theorem State.draws_setPc (s : State) (v : Word) : (s.setPc v).draws = s.draws := rfl
@[simp] theorem State.cfg_setPc (s : State) (v : Word) : (s.setPc v).cfg = s.cfg := rfl
@[simp] theorem State.reg_setPc (s : State) (v : Word) (q : Reg) : (s.setPc v).reg q = s.reg q := rfl

/-! ### setSp -/

@[simp] theorem State.regs_setSp (s : State) (v : Word) : (s.setSp v).regs = s.regs := rfl
@[simp] theorem State.pc_setSp (s : State) (v : Word) : (s.setSp v).pc = s.pc := rfl
@[simp] theorem State.sp_setSp (s : State) (v : Word) : (s.setSp v).sp = v := rfl
@[simp] theorem State.zf_setSp (s : State) (v : Word) : (s.setSp v).zf = s.zf := rfl
@[simp] theorem State.sf_setSp (s : State) (v : Word) : (s.setSp v).sf = s.sf := rfl
@[simp] theorem State.ovf_setSp (s : State) (v : Word) : (s.setSp v).ovf = s.ovf := rfl
@[simp] theorem State.mode_setSp (s : State) (v : Word) : (s.setSp v).mode = s.mode := rfl
@[simp] theorem State.ai_setSp (s : State) (v : Word) : (s.setSp v).ai = s.ai := rfl
@[simp] theorem State.vt_setSp (s : State) (v : Word) : (s.setSp v).vt = s.vt := rfl
@[simp] theorem State.settings_setSp (s : State) (v : Word) : (s.setSp v).settings = s.settings := rfl
@[simp] theorem State.mem_setSp (s : State) (v : Word) : (s.setSp v).mem = s.mem := rfl
@[simp] theorem State.status_setSp (s : State) (v : Word) : (s.setSp v).status = s.status := rfl
@[simp] theorem State.portTrace_setSp (s : State) (v : Word) : (s.setSp v).portTrace = s.portTrace := rfl
@[simp] theorem State.irqScript_setSp (s : State) (v : Word) : (s.setSp v).irqScript = s.irqScript := rfl
@[simp] theorem State.portScript_setSp (s : State) (v : Word) : (s.setSp v).portScript = s.portScript := rfl
@[simp] theorem State.draws_setSp (s : State) (v : Word) : (s.setSp v).draws = s.draws := rfl
@[simp] theorem State.cfg_setSp (s : State) (v : Word) : (s.setSp v).cfg = s.cfg := rfl
@[simp] theorem State.reg_setSp (s : State) (v : Word) (q : Reg) : (s.setSp v).reg q = s.reg q := rfl

/-! ### setFlags -/

@[simp] theorem State.regs_setFlags (s : State) (z n o : Bool) : (s.setFlags z n o).regs = s.regs := rfl
@[simp] theorem State.pc_setFlags (s : State) (z n o : Bool) : (s.setFlags z n o).pc = s.pc := rfl
@[simp] theorem State.sp_setFlags (s : State) (z n o : Bool) : (s.setFlags z n o).sp = s.sp := rfl
@[simp] theorem State.zf_setFlags (s : State) (z n o : Bool) : (s.setFlags z n o).zf = z := rfl
@[simp] theorem State.sf_setFlags (s : State) (z n o : Bool) : (s.setFlags z n o).sf = n := rfl
@[simp] theorem State.ovf_setFlags (s : State) (z n o : Bool) : (s.setFlags z n o).ovf = o := rfl
@[simp] theorem State.mode_setFlags (s : State) (z n o : Bool) : (s.setFlags z n o).mode = s.mode := rfl
@[simp] theorem State.ai_setFlags (s : State) (z n o : Bool) : (s.setFlags z n o).ai = s.ai := rfl
@[simp] theorem State.vt_setFlags (s : State) (z n o : Bool) : (s.setFlags z n o).vt = s.vt := rfl
@[simp] theorem State.settings_setFlags (s : State) (z n o : Bool) : (s.setFlags z n o).settings = s.settings := rfl
@[simp] theorem State.mem_setFlags (s : State) (z n o : Bool) : (s.setFlags z n o).mem = s.mem := rfl
@[simp] theorem State.status_setFlags (s : State) (z n o : Bool) : (s.setFlags z n o).status = s.status := rfl
@[simp] theorem State.portTrace_setFlags (s : State) (z n o : Bool) : (s.setFlags z n o).portTrace = s.portTrace := rfl
@[simp] theorem State.irqScript_setFlags (s : State) (z n o : Bool) : (s.setFlags z n o).irqScript = s.irqScript := rfl
@[simp] theorem State.portScript_setFlags (s : State) (z n o : Bool) : (s.setFlags z n o).portScript = s.portScript := rfl
@[simp] theorem State.draws_setFlags (s : State) (z n o : Bool) : (s.setFlags z n o).draws = s.draws := rfl
@[simp] theorem State.cfg_setFlags (s : State) (z n o : Bool) : (s.setFlags z n o).cfg = s.cfg := rfl
@[simp] theorem State.reg_setFlags (s : State) (z n o : Bool) (q : Reg) : (s.setFlags z n o).reg q = s.reg q := rfl

/-! ### raise -/

@[simp] theorem State.regs_raise (s : State) (f : Fault) : (s.raise f).regs = s.regs := rfl
@[simp] theorem State.pc_raise (s : State) (f : Fault) : (s.raise f).pc = s.pc := rfl
@[simp] theorem State.sp_raise (s : State) (f : Fault) : (s.raise f).sp = s.sp := rfl
@[simp] theorem State.zf_raise (s : State) (f : Fault) : (s.raise f).zf = s.zf := rfl
@[simp] theorem State.sf_raise (s : State) (f : Fault) : (s.raise f).sf = s.sf := rfl
@[simp] theorem State.ovf_raise (s : State) (f : Fault) : (s.raise f).ovf = s.ovf := rfl
@[simp] theorem State.mode_raise (s : State) (f : Fault) : (s.raise f).mode = s.mode := rfl
@[simp] theorem State.ai_raise (s : State) (f : Fault) : (s.raise f).ai = s.ai := rfl
@[simp] theorem State.vt_raise (s : State) (f : Fault) : (s.raise f).vt = s.vt := rfl
@[simp] theorem State.settings_raise (s : State) (f : Fault) : (s.raise f).settings = s.settings := rfl
@[simp] theorem State.mem_raise (s : State) (f : Fault) : (s.raise f).mem = s.mem := rfl
@[simp] theorem State.status_raise (s : State) (f : Fault) : (s.raise f).status = .faulted f := rfl
@[simp] theorem State.portTrace_raise (s : State) (f : Fault) : (s.raise f).portTrace = s.portTrace := rfl
@[simp] theorem State.irqScript_raise (s : State) (f : Fault) : (s.raise f).irqScript = s.irqScript := rfl
@[simp] theorem State.portScript_raise (s : State) (f : Fault) : (s.raise f).portScript = s.portScript := rfl
@[simp] theorem State.draws_raise (s : State) (f : Fault) : (s.raise f).draws = s.draws := rfl
@[simp] theorem State.cfg_raise (s : State) (f : Fault) : (s.raise f).cfg = s.cfg := rfl
@[simp] theorem State.reg_raise (s : State) (f : Fault) (q : Reg) : (s.raise f).reg q = s.reg q := rfl

/-! ### drawn -/

@[simp] theorem State.regs_drawn (s : State) : (s.drawn).regs = s.regs := rfl
@[simp] theorem State.pc_drawn (s : State) : (s.drawn).pc = s.pc := rfl
@[simp] theorem State.sp_drawn (s : State) : (s.drawn).sp = s.sp := rfl
@[simp] theorem State.zf_drawn (s : State) : (s.drawn).zf = s.zf := rfl
@[simp] theorem State.sf_drawn (s : State) : (s.drawn).sf = s.sf := rfl
@[simp] theorem State.ovf_drawn (s : State) : (s.drawn).ovf = s.ovf := rfl
@[simp] theorem State.mode_drawn (s : State) : (s.drawn).mode = s.mode := rfl
@[simp] theorem State.ai_drawn (s : State) : (s.drawn).ai = s.ai := rfl
@[simp] theorem State.vt_drawn (s : State) : (s.drawn).vt = s.vt := rfl
@[simp] theorem State.settings_drawn (s : State) : (s.drawn).settings = s.settings := rfl
@[simp] theorem State.mem_drawn (s : State) : (s.drawn).mem = s.mem := rfl
@[simp] theorem State.status_drawn (s : State) : (s.drawn).status = s.status := rfl
@[simp] theorem State.portTrace_drawn (s : State) : (s.drawn).portTrace = s.portTrace := rfl
@[simp] theorem State.irqScript_drawn (s : State) : (s.drawn).irqScript = s.irqScript := rfl
@[simp] theorem State.portScript_drawn (s : State) : (s.drawn).portScript = s.portScript := rfl
@[simp] theorem State.draws_drawn (s : State) : (s.drawn).draws = s.draws + 1 := rfl
@[simp] theorem State.cfg_drawn (s : State) : (s.drawn).cfg = s.cfg := rfl
@[simp] theorem State.reg_drawn (s : State) (q : Reg) : (s.drawn).reg q = s.reg q := rfl

/-! ### sampled -/

@[simp] theorem State.regs_sampled (s : State) : (sampled s).regs = s.regs := rfl
@[simp] theorem State.pc_sampled (s : State) : (sampled s).pc = s.pc := rfl
@[simp] theorem State.sp_sampled (s : State) : (sampled s).sp = s.sp := rfl
@[simp] theorem State.zf_sampled (s : State) : (sampled s).zf = s.zf := rfl
@[simp] theorem State.sf_sampled (s : State) : (sampled s).sf = s.sf := rfl
@[simp] theorem State.ovf_sampled (s : State) : (sampled s).ovf = s.ovf := rfl
@[simp] theorem State.mode_sampled (s : State) : (sampled s).mode = s.mode := rfl
@[simp] theorem State.ai_sampled (s : State) : (sampled s).ai = s.ai := rfl
@[simp] theorem State.vt_sampled (s : State) : (sampled s).vt = s.vt := rfl
@[simp] theorem State.settings_sampled (s : State) : (sampled s).settings = s.settings := rfl
@[simp] theorem State.mem_sampled (s : State) : (sampled s).mem = s.mem := rfl
@[simp] theorem State.status_sampled (s : State) : (sampled s).status = s.status := rfl
@[simp] theorem State.portTrace_sampled (s : State) : (sampled s).portTrace = s.portTrace := rfl
@[simp] theorem State.irqScript_sampled (s : State) : (sampled s).irqScript = s.irqScript.tail := rfl
@[simp] theorem State.portScript_sampled (s : State) : (sampled s).portScript = s.portScript := rfl
@[simp] theorem State.draws_sampled (s : State) :
    (sampled s).draws = if s.ai then s.draws + 1 else s.draws := rfl

/-- With AI false and no request supplied, taking the sample changes nothing. -/
theorem State.sampled_eq_self (s : State) (ha : s.ai = false) (hs : s.irqScript = []) : sampled s = s := by
  cases s
  cases ha
  cases hs
  rfl

@[simp] theorem State.cfg_sampled (s : State) : (sampled s).cfg = s.cfg := rfl
@[simp] theorem State.reg_sampled (s : State) (q : Reg) : (sampled s).reg q = s.reg q := rfl

/-! ### writeByte -/

@[simp] theorem State.regs_writeByte (s : State) (a : Word) (b : Byte) : (writeByte s a b).regs = s.regs := rfl
@[simp] theorem State.pc_writeByte (s : State) (a : Word) (b : Byte) : (writeByte s a b).pc = s.pc := rfl
@[simp] theorem State.sp_writeByte (s : State) (a : Word) (b : Byte) : (writeByte s a b).sp = s.sp := rfl
@[simp] theorem State.zf_writeByte (s : State) (a : Word) (b : Byte) : (writeByte s a b).zf = s.zf := rfl
@[simp] theorem State.sf_writeByte (s : State) (a : Word) (b : Byte) : (writeByte s a b).sf = s.sf := rfl
@[simp] theorem State.ovf_writeByte (s : State) (a : Word) (b : Byte) : (writeByte s a b).ovf = s.ovf := rfl
@[simp] theorem State.mode_writeByte (s : State) (a : Word) (b : Byte) : (writeByte s a b).mode = s.mode := rfl
@[simp] theorem State.ai_writeByte (s : State) (a : Word) (b : Byte) : (writeByte s a b).ai = s.ai := rfl
@[simp] theorem State.vt_writeByte (s : State) (a : Word) (b : Byte) : (writeByte s a b).vt = s.vt := rfl
@[simp] theorem State.settings_writeByte (s : State) (a : Word) (b : Byte) : (writeByte s a b).settings = s.settings := rfl
@[simp] theorem State.mem_writeByte (s : State) (a : Word) (b : Byte) : (writeByte s a b).mem = storePut s.mem a.toNat b := rfl
@[simp] theorem State.status_writeByte (s : State) (a : Word) (b : Byte) : (writeByte s a b).status = s.status := rfl
@[simp] theorem State.portTrace_writeByte (s : State) (a : Word) (b : Byte) : (writeByte s a b).portTrace = s.portTrace := rfl
@[simp] theorem State.irqScript_writeByte (s : State) (a : Word) (b : Byte) : (writeByte s a b).irqScript = s.irqScript := rfl
@[simp] theorem State.portScript_writeByte (s : State) (a : Word) (b : Byte) : (writeByte s a b).portScript = s.portScript := rfl
@[simp] theorem State.draws_writeByte (s : State) (a : Word) (b : Byte) : (writeByte s a b).draws = s.draws := rfl
@[simp] theorem State.cfg_writeByte (s : State) (a : Word) (b : Byte) : (writeByte s a b).cfg = s.cfg := rfl
@[simp] theorem State.reg_writeByte (s : State) (a : Word) (b : Byte) (q : Reg) : (writeByte s a b).reg q = s.reg q := rfl

/-! ### portReadState -/

@[simp] theorem State.regs_portReadState (s : State) (p : Word) (sz : Size) : (portReadState s p sz).regs = s.regs := rfl
@[simp] theorem State.pc_portReadState (s : State) (p : Word) (sz : Size) : (portReadState s p sz).pc = s.pc := rfl
@[simp] theorem State.sp_portReadState (s : State) (p : Word) (sz : Size) : (portReadState s p sz).sp = s.sp := rfl
@[simp] theorem State.zf_portReadState (s : State) (p : Word) (sz : Size) : (portReadState s p sz).zf = s.zf := rfl
@[simp] theorem State.sf_portReadState (s : State) (p : Word) (sz : Size) : (portReadState s p sz).sf = s.sf := rfl
@[simp] theorem State.ovf_portReadState (s : State) (p : Word) (sz : Size) : (portReadState s p sz).ovf = s.ovf := rfl
@[simp] theorem State.mode_portReadState (s : State) (p : Word) (sz : Size) : (portReadState s p sz).mode = s.mode := rfl
@[simp] theorem State.ai_portReadState (s : State) (p : Word) (sz : Size) : (portReadState s p sz).ai = s.ai := rfl
@[simp] theorem State.vt_portReadState (s : State) (p : Word) (sz : Size) : (portReadState s p sz).vt = s.vt := rfl
@[simp] theorem State.settings_portReadState (s : State) (p : Word) (sz : Size) : (portReadState s p sz).settings = s.settings := rfl
@[simp] theorem State.mem_portReadState (s : State) (p : Word) (sz : Size) : (portReadState s p sz).mem = s.mem := rfl
@[simp] theorem State.status_portReadState (s : State) (p : Word) (sz : Size) : (portReadState s p sz).status = s.status := rfl
@[simp] theorem State.portTrace_portReadState (s : State) (p : Word) (sz : Size) : (portReadState s p sz).portTrace = s.portTrace ++ [.read p sz.bytes (portInput s p sz)] := rfl
@[simp] theorem State.irqScript_portReadState (s : State) (p : Word) (sz : Size) : (portReadState s p sz).irqScript = s.irqScript := rfl
@[simp] theorem State.portScript_portReadState (s : State) (p : Word) (sz : Size) : (portReadState s p sz).portScript = s.portScript.tail := rfl
@[simp] theorem State.draws_portReadState (s : State) (p : Word) (sz : Size) : (portReadState s p sz).draws = s.draws + 1 := rfl
@[simp] theorem State.cfg_portReadState (s : State) (p : Word) (sz : Size) : (portReadState s p sz).cfg = s.cfg := rfl
@[simp] theorem State.reg_portReadState (s : State) (p : Word) (sz : Size) (q : Reg) : (portReadState s p sz).reg q = s.reg q := rfl

/-! ### portWriteState -/

@[simp] theorem State.regs_portWriteState (s : State) (p : Word) (sz : Size) (v : Word) : (portWriteState s p sz v).regs = s.regs := rfl
@[simp] theorem State.pc_portWriteState (s : State) (p : Word) (sz : Size) (v : Word) : (portWriteState s p sz v).pc = s.pc := rfl
@[simp] theorem State.sp_portWriteState (s : State) (p : Word) (sz : Size) (v : Word) : (portWriteState s p sz v).sp = s.sp := rfl
@[simp] theorem State.zf_portWriteState (s : State) (p : Word) (sz : Size) (v : Word) : (portWriteState s p sz v).zf = s.zf := rfl
@[simp] theorem State.sf_portWriteState (s : State) (p : Word) (sz : Size) (v : Word) : (portWriteState s p sz v).sf = s.sf := rfl
@[simp] theorem State.ovf_portWriteState (s : State) (p : Word) (sz : Size) (v : Word) : (portWriteState s p sz v).ovf = s.ovf := rfl
@[simp] theorem State.mode_portWriteState (s : State) (p : Word) (sz : Size) (v : Word) : (portWriteState s p sz v).mode = s.mode := rfl
@[simp] theorem State.ai_portWriteState (s : State) (p : Word) (sz : Size) (v : Word) : (portWriteState s p sz v).ai = s.ai := rfl
@[simp] theorem State.vt_portWriteState (s : State) (p : Word) (sz : Size) (v : Word) : (portWriteState s p sz v).vt = s.vt := rfl
@[simp] theorem State.settings_portWriteState (s : State) (p : Word) (sz : Size) (v : Word) : (portWriteState s p sz v).settings = s.settings := rfl
@[simp] theorem State.mem_portWriteState (s : State) (p : Word) (sz : Size) (v : Word) : (portWriteState s p sz v).mem = s.mem := rfl
@[simp] theorem State.status_portWriteState (s : State) (p : Word) (sz : Size) (v : Word) : (portWriteState s p sz v).status = s.status := rfl
@[simp] theorem State.portTrace_portWriteState (s : State) (p : Word) (sz : Size) (v : Word) : (portWriteState s p sz v).portTrace = s.portTrace ++ [.write p sz.bytes (truncate sz v)] := rfl
@[simp] theorem State.irqScript_portWriteState (s : State) (p : Word) (sz : Size) (v : Word) : (portWriteState s p sz v).irqScript = s.irqScript := rfl
@[simp] theorem State.portScript_portWriteState (s : State) (p : Word) (sz : Size) (v : Word) : (portWriteState s p sz v).portScript = s.portScript := rfl
@[simp] theorem State.draws_portWriteState (s : State) (p : Word) (sz : Size) (v : Word) : (portWriteState s p sz v).draws = s.draws := rfl
@[simp] theorem State.cfg_portWriteState (s : State) (p : Word) (sz : Size) (v : Word) : (portWriteState s p sz v).cfg = s.cfg := rfl
@[simp] theorem State.reg_portWriteState (s : State) (p : Word) (sz : Size) (v : Word) (q : Reg) : (portWriteState s p sz v).reg q = s.reg q := rfl

end Sys2Proof.Machine
end

