-- ==== Sys2Proof/Laws/Memory.lean ====
section
/-! SUPPORT. Laws of stores and of memory: read after write, and the canonical forms. -/

namespace Sys2Proof.Machine

variable {α : Type}

/-! ### Stores -/

/-- An entry read after one is put. -/
theorem storeGet_storePut (m : List (Nat × α)) (a k : Nat) (v : α) :
    storeGet (storePut m a v) k = if a = k then some v else storeGet m k := by
  induction m with
  | nil => simp [storePut, storeGet]
  | cons c rest ih =>
    obtain ⟨b, w⟩ := c
    simp only [storePut]
    split
    · simp [storeGet]
    · split
      · rename_i h; subst h; simp only [storeGet]; split <;> simp_all
      · simp only [storeGet, ih]; split
        · split
          · omega
          · rfl
        · rfl

/-- An entry read after one is erased. -/
theorem storeGet_storeErase (m : List (Nat × α)) (a k : Nat) :
    storeGet (storeErase m a) k = if a = k then none else storeGet m k := by
  induction m with
  | nil => simp [storeErase, storeGet]
  | cons c rest ih =>
    obtain ⟨b, w⟩ := c
    simp only [storeErase, storeGet]
    by_cases hb : b = a
    · rw [if_pos hb, ih]
      by_cases hk : a = k
      · rw [if_pos hk, if_pos hk]
      · rw [if_neg hk, if_neg hk, if_neg (fun e => hk (hb ▸ e))]
    · rw [if_neg hb]
      simp only [storeGet, ih]
      by_cases hk : a = k
      · rw [if_pos hk, if_neg (fun e => hb (e.trans hk.symm)), if_pos hk]
      · rw [if_neg hk, if_neg hk]

/-- Putting an entry above a bound keeps the keys rising above it. -/
theorem storeRising_storePut (m : List (Nat × α)) (lo : Option Nat) (a : Nat) (v : α)
    (h : storeRising lo m = true) (hlo : ∀ l, lo = some l → l < a) : storeRising lo (storePut m a v) = true := by
  induction m generalizing lo with
  | nil => cases lo <;> simp_all [storePut, storeRising]
  | cons c rest ih =>
    obtain ⟨b, w⟩ := c
    simp only [storeRising, Bool.and_eq_true] at h
    simp only [storePut]
    split
    · rename_i hab
      simp only [storeRising, Bool.and_eq_true, decide_eq_true_eq]
      exact ⟨by cases lo <;> simp_all, hab, h.2⟩
    · split
      · rename_i hab; subst hab
        simp only [storeRising, Bool.and_eq_true]
        exact ⟨by cases lo <;> simp_all, h.2⟩
      · simp only [storeRising, Bool.and_eq_true]
        exact ⟨h.1, ih (some b) h.2 (by intro l hl; cases hl; omega)⟩

/-- A store whose keys rise above a bound rises above a lower one. -/
theorem storeRising_mono (m : List (Nat × α)) (l l' : Nat) (hl : l ≤ l') (h : storeRising (some l') m = true) :
    storeRising (some l) m = true := by
  cases m with
  | nil => rfl
  | cons c rest => simp only [storeRising, Bool.and_eq_true, decide_eq_true_eq] at h ⊢; exact ⟨by omega, h.2⟩

/-- Erasing an entry keeps the keys rising. -/
theorem storeRising_storeErase (m : List (Nat × α)) (lo : Option Nat) (a : Nat)
    (h : storeRising lo m = true) : storeRising lo (storeErase m a) = true := by
  induction m generalizing lo with
  | nil => rfl
  | cons c rest ih =>
    obtain ⟨b, w⟩ := c
    simp only [storeRising, Bool.and_eq_true] at h
    simp only [storeErase]
    split
    · cases lo with
      | none =>
        have := ih (some b) h.2
        cases hh : storeErase rest a with
        | nil => rfl
        | cons d t =>
          rw [hh] at this
          simp only [storeRising, Bool.and_eq_true] at this ⊢
          exact ⟨trivial, this.2⟩
      | some l =>
        exact storeRising_mono _ l b (by have := h.1; simp at this; omega) (ih (some b) h.2)
    · simp only [storeRising, Bool.and_eq_true]
      exact ⟨h.1, ih _ h.2⟩

/-- What holds of every entry and of the new one holds of every entry after a put. -/
theorem storePut_all (m : List (Nat × α)) (p : Nat × α → Bool) (a : Nat) (v : α)
    (h : m.all p = true) (hp : p (a, v) = true) : (storePut m a v).all p = true := by
  induction m with
  | nil => simp [storePut, hp]
  | cons c rest ih =>
    obtain ⟨b, w⟩ := c
    simp only [List.all_cons, Bool.and_eq_true] at h
    simp only [storePut]
    split
    · simp only [List.all_cons, Bool.and_eq_true]; exact ⟨hp, h.1, h.2⟩
    · split
      · simp only [List.all_cons, Bool.and_eq_true]; exact ⟨hp, h.2⟩
      · simp only [List.all_cons, Bool.and_eq_true]; exact ⟨h.1, ih h.2⟩

/-- What holds of every entry holds of every entry after an erasure. -/
theorem storeErase_all (m : List (Nat × α)) (p : Nat × α → Bool) (a : Nat)
    (h : m.all p = true) : (storeErase m a).all p = true := by
  induction m with
  | nil => rfl
  | cons c rest ih =>
    obtain ⟨b, w⟩ := c
    simp only [List.all_cons, Bool.and_eq_true] at h
    simp only [storeErase]
    split
    · exact ih h.2
    · simp only [List.all_cons, Bool.and_eq_true]; exact ⟨h.1, ih h.2⟩

/-! ### Tables of words -/

/-- An entry of a table read after one is written. -/
theorem tableRead_tableWrite (t : List (Nat × Word)) (k k' : Nat) (v : Word) :
    tableRead (tableWrite t k v) k' = if k = k' then v else tableRead t k' := by
  unfold tableRead tableWrite
  split_ifs with hv hk
  · subst hk; simp [storeGet_storeErase, hv]
  · simp [storeGet_storeErase, hk]
  · rename_i hk; subst hk; simp [storeGet_storePut]
  · rename_i hk; simp [storeGet_storePut, hk]

/-- Writing an entry keeps a table in canonical form. -/
theorem tableWf_tableWrite (t : List (Nat × Word)) (k : Nat) (v : Word) (h : tableWf t = true) :
    tableWf (tableWrite t k v) = true := by
  unfold tableWf at h ⊢
  rw [Bool.and_eq_true] at h ⊢
  unfold tableWrite
  split
  · exact ⟨storeRising_storeErase _ _ _ h.1, storeErase_all _ _ _ h.2⟩
  · rename_i hv
    exact ⟨storeRising_storePut _ _ _ _ h.1 (by intro l hl; cases hl), storePut_all _ _ _ _ h.2 (by simpa using hv)⟩

/-! ### Memory -/

/-- A byte read after one is written. -/
theorem readByte_writeByte (s : State) (a a' : Word) (b : Byte) :
    readByte (writeByte s a b) a' = if a = a' then b else readByte s a' := by
  unfold readByte
  rw [State.mem_writeByte, storeGet_storePut]
  by_cases h : a = a'
  · subst h; simp
  · rw [if_neg (fun e => h (BitVec.eq_of_toNat_eq e)), if_neg h]

/-- Writing a byte keeps memory in canonical form. -/
theorem memory_wf_writeByte (s : State) (a : Word) (b : Byte) (h : Memory.wf s.mem = true) :
    Memory.wf (writeByte s a b).mem = true := by
  unfold Memory.wf at h ⊢
  rw [Bool.and_eq_true] at h ⊢
  exact ⟨storeRising_storePut _ _ _ _ h.1 (by intro l hl; cases hl),
    storePut_all _ _ _ _ h.2 (by simpa using a.isLt)⟩

/-- Writing bytes changes nothing but memory. -/
theorem writeBytes_eq (s : State) (a : Word) (bs : List Byte) :
    writeBytes s a bs = { s with mem := (writeBytes s a bs).mem } := by
  induction bs generalizing s a with
  | nil => rfl
  | cons b rest ih => simp only [writeBytes]; rw [ih]; rfl

/-- Writing bytes keeps memory in canonical form. -/
theorem memory_wf_writeBytes (s : State) (a : Word) (bs : List Byte) (h : Memory.wf s.mem = true) :
    Memory.wf (writeBytes s a bs).mem = true := by
  induction bs generalizing s a with
  | nil => exact h
  | cons b rest ih => exact ih _ _ (memory_wf_writeByte s a b h)

/-- A byte outside the bytes written reads as before. -/
theorem readByte_writeBytes_outside (s : State) (a : Word) (bs : List Byte) (x : Word)
    (h : ∀ i, i < bs.length → x ≠ byteAddr a i) : readByte (writeBytes s a bs) x = readByte s x := by
  induction bs generalizing s a with
  | nil => rfl
  | cons b rest ih =>
    simp only [writeBytes]
    rw [ih, readByte_writeByte, if_neg]
    · have := h 0 (by simp); simpa [byteAddr] using this.symm
    · intro i hi hx
      refine h (i + 1) (by simpa using hi) ?_
      rw [hx]; unfold byteAddr; rw [BitVec.add_assoc]; congr 1
      apply BitVec.eq_of_toNat_eq; simp [BitVec.toNat_add]; omega

/-- Byte `i` of the bytes written, read back. -/
theorem readByte_writeBytes_inside (s : State) (a : Word) (bs : List Byte) (i : Nat) (hi : i < bs.length)
    (hlen : bs.length ≤ 2 ^ 64) : readByte (writeBytes s a bs) (byteAddr a i) = bs[i] := by
  induction bs generalizing s a i with
  | nil => simp at hi
  | cons b rest ih =>
    simp only [writeBytes]
    have hl : rest.length + 1 ≤ 2 ^ 64 := hlen
    cases i with
    | zero =>
      rw [readByte_writeBytes_outside, readByte_writeByte, if_pos (by simp [byteAddr])]
      · rfl
      · intro j hj hx
        have := congrArg BitVec.toNat hx
        simp [byteAddr, BitVec.toNat_add] at this
        omega
    | succ j =>
      have e : byteAddr a (j + 1) = byteAddr (a + 1) j := by
        unfold byteAddr; rw [BitVec.add_assoc]; congr 1
        apply BitVec.eq_of_toNat_eq; simp [BitVec.toNat_add]; omega
      rw [e, ih _ _ _ (by simpa using hi) (by omega)]
      rfl

/-- The bytes written, read back. -/
theorem readBytes_writeBytes (s : State) (a : Word) (bs : List Byte) (hlen : bs.length ≤ 2 ^ 64) :
    readBytes (writeBytes s a bs) a bs.length = bs := by
  apply List.ext_getElem
  · simp [readBytes]
  · intro i h1 h2
    simp only [readBytes, List.getElem_map, List.getElem_range]
    exact readByte_writeBytes_inside s a bs i h2 hlen

end Sys2Proof.Machine
end

