-- ==== Sys2Proof/Laws/Bytes.lean ====
section
/-! SUPPORT. Laws of byte order, widening and truncation, and of a value stored and loaded back. -/

namespace Sys2Proof.Machine

@[simp] theorem wordToBytes_length (n : Nat) (v : Word) : (wordToBytes n v).length = n := by
  simp [wordToBytes]

@[simp] theorem dataOrder_length (be : Bool) (bs : List Byte) : (dataOrder be bs).length = bs.length := by
  unfold dataOrder; split <;> simp

/-- The byte order of data is its own inverse. -/
@[simp] theorem dataOrder_dataOrder (be : Bool) (bs : List Byte) : dataOrder be (dataOrder be bs) = bs := by
  unfold dataOrder; split <;> simp

theorem truncate_toNat (sz : Size) (v : Word) : (truncate sz v).toNat = v.toNat % 2 ^ (8 * sz.bytes) := by
  cases sz <;> simp [truncate, widen, Size.bytes] <;> omega

/-- Splitting a word into bytes and joining them gives its low bytes. -/
theorem bytesToWord_wordToBytes (sz : Size) (v : Word) :
    bytesToWord (wordToBytes sz.bytes v) = truncate sz v := by
  apply BitVec.eq_of_toNat_eq
  rw [truncate_toNat]
  have hv := v.isLt
  cases sz <;>
    simp [bytesToWord, wordToBytes, Size.bytes, List.range, List.range.loop, Nat.shiftRight_eq_div_pow] <;> omega

/-- Widening looks only at the low bytes. -/
@[simp] theorem widen_truncate (k : Ext) (sz : Size) (v : Word) : widen k sz (truncate sz v) = widen k sz v := by
  have : (truncate sz v).setWidth (8 * sz.bytes) = v.setWidth (8 * sz.bytes) := by
    apply BitVec.eq_of_toNat_eq
    rw [BitVec.toNat_setWidth, truncate_toNat, BitVec.toNat_setWidth, Nat.mod_mod]
  cases k <;> simp only [widen, this]

/-- A value of a whole word is not changed by widening. -/
@[simp] theorem widen_word (k : Ext) (v : Word) : widen k .b8 v = v := by
  cases k <;> simp [widen, Size.bytes]

/-- A stored value loaded back at the same address and size: its low bytes. -/
theorem loadValue_storeValue (s : State) (a : Word) (sz : Size) (v : Word) :
    loadValue (storeValue s a sz v) a sz = truncate sz v := by
  have hc : (storeValue s a sz v).cfg = s.cfg := by
    unfold storeValue; rw [writeBytes_eq]
  have hl : (dataOrder s.cfg.dataBigEndian (wordToBytes sz.bytes v)).length = sz.bytes := by simp
  have hb : sz.bytes ≤ 2 ^ 64 := by cases sz <;> decide
  unfold loadValue
  rw [hc]
  have := readBytes_writeBytes s a (dataOrder s.cfg.dataBigEndian (wordToBytes sz.bytes v)) (by omega)
  rw [hl] at this
  unfold storeValue
  rw [this, dataOrder_dataOrder, bytesToWord_wordToBytes]

end Sys2Proof.Machine
end

