-- ==== Sys2Proof/Laws/Decode.lean ====
section
/-! SUPPORT. Laws of the encoding: nibbles, immediates, and one lemma for each format of 30_encoding.md R91 to R94 that
says when it decodes and to what. -/

namespace Sys2Proof

/-! ### Nibbles -/

@[simp] theorem Reg.ofNibble_toNibble (r : Reg) : Reg.ofNibble r.toNibble = r := by cases r <;> rfl

@[simp] theorem Reg.toNibble_ofNibble (n : Nibble) : (Reg.ofNibble n).toNibble = n := by
  revert n; decide

@[simp] theorem Size.ofNibble?_toNibble (sz : Size) : Size.ofNibble? sz.toNibble = some sz := by cases sz <;> rfl

/-- A legal Size code is the code of its size. -/
theorem Size.ofNibble?_eq_some {n : Nibble} {sz : Size} (h : Size.ofNibble? n = some sz) : n = sz.toNibble := by
  revert n; cases sz <;> decide

/-- A Size code is legal exactly when it is at most 3 (30_encoding.md R86). -/
theorem Size.ofNibble?_isSome (n : Nibble) : (Size.ofNibble? n).isSome = decide (n.toNat ≤ 3) := by
  revert n; decide

@[simp] theorem Cond.ofNibble?_toNibble (c : Cond) : Cond.ofNibble? c.toNibble = some c := by cases c <;> rfl

/-- An assigned condition code is the code of its condition. -/
theorem Cond.ofNibble?_eq_some {n : Nibble} {c : Cond} (h : Cond.ofNibble? n = some c) : n = c.toNibble := by
  revert n; cases c <;> decide

/-- A condition code is assigned exactly when it is not 8 to E (30_encoding.md R105). -/
theorem Cond.ofNibble?_isSome (n : Nibble) :
    (Cond.ofNibble? n).isSome = !(decide (8 ≤ n.toNat) && decide (n.toNat ≤ 14)) := by
  revert n; decide

@[simp] theorem highNibble_byteOf (hi lo : Nibble) : highNibble (byteOf hi lo) = hi := by
  revert hi lo; decide

@[simp] theorem lowNibble_byteOf (hi lo : Nibble) : lowNibble (byteOf hi lo) = lo := by
  revert hi lo; decide

@[simp] theorem byteOf_nibbles (b : Byte) : byteOf (highNibble b) (lowNibble b) = b := by
  revert b; decide

/-! ### Immediates -/

theorem Machine.takeBytes_append (front rest : List Byte) :
    Machine.takeBytes front.length (front ++ rest) = some (front, rest) := by
  induction front with
  | nil => cases rest <;> rfl
  | cons b front ih => simp [Machine.takeBytes, ih]

/-- What `takeBytes` answers is a split of the string. -/
theorem Machine.takeBytes_eq_some {n : Nat} {bytes front rest : List Byte}
    (h : Machine.takeBytes n bytes = some (front, rest)) : bytes = front ++ rest ∧ front.length = n := by
  induction n generalizing bytes front rest with
  | zero => cases h; exact ⟨rfl, rfl⟩
  | succ n ih =>
    cases bytes with
    | nil => cases h
    | cons b tail =>
      simp only [Machine.takeBytes] at h
      split at h
      · rename_i f r e
        cases h
        obtain ⟨h1, h2⟩ := ih e
        exact ⟨by rw [h1]; rfl, by simp [h2]⟩
      · cases h

@[simp] theorem Imm.encode_length (imm : Imm) : imm.encode.length = imm.size.bytes := by simp [Imm.encode]

theorem Size.bytes_pos (sz : Size) : 0 < sz.bytes := by cases sz <;> decide

theorem Size.bytes_le (sz : Size) : sz.bytes ≤ 8 := by cases sz <;> decide

/-- The bytes of a fitting immediate, joined, are its value. -/
theorem Imm.bytesToWord_encode (imm : Imm) (h : imm.fits = true) : Machine.bytesToWord imm.encode = imm.value := by
  unfold Imm.encode
  rw [Machine.bytesToWord_wordToBytes]
  apply BitVec.eq_of_toNat_eq
  rw [Machine.truncate_toNat]
  exact Nat.mod_eq_of_lt (by simpa [Imm.fits] using h)

/-- Joining bytes gives a value of as many bytes. -/
theorem Machine.bytesToWord_toNat_lt (sz : Size) (bytes : List Byte) (h : bytes.length = sz.bytes) :
    (Machine.bytesToWord bytes).toNat < 2 ^ (8 * sz.bytes) := by
  have key : ∀ (bs : List Byte) (acc k : Nat), acc < 256 ^ k →
      bs.foldl (fun acc b => acc * 256 + b.toNat) acc < 256 ^ (k + bs.length) := by
    intro bs
    induction bs with
    | nil => intro acc k h; simpa using h
    | cons b rest ih =>
      intro acc k h
      have hb := b.isLt
      have := ih (acc * 256 + b.toNat) (k + 1) (by rw [Nat.pow_succ]; omega)
      simpa [Nat.add_assoc, Nat.add_comm 1] using this
  have := key bytes 0 0 (by decide)
  rw [Nat.zero_add, h, show (256 : Nat) = 2 ^ 8 from rfl, ← Nat.pow_mul] at this
  unfold Machine.bytesToWord
  rw [BitVec.toNat_ofNat]
  exact Nat.lt_of_le_of_lt (Nat.mod_le _ _) this

/-- Joining as many bytes as a size has and splitting them again gives them back. -/
theorem Machine.wordToBytes_bytesToWord (sz : Size) (bytes : List Byte) (h : bytes.length = sz.bytes) :
    Machine.wordToBytes sz.bytes (Machine.bytesToWord bytes) = bytes := by
  cases sz <;> simp only [Size.bytes] at h ⊢
  · obtain ⟨a, rfl⟩ := List.length_eq_one_iff.mp h
    simp [Machine.wordToBytes, Machine.bytesToWord, List.range, List.range.loop]
  · obtain ⟨a, b, rfl⟩ := List.length_eq_two.mp h
    have ha := a.isLt; have hb := b.isLt
    simp only [Machine.wordToBytes, Machine.bytesToWord, List.range, List.range.loop, List.map_cons, List.map_nil,
      List.foldl_cons, List.foldl_nil, List.cons.injEq, and_true]
    refine ⟨?_, ?_⟩ <;> apply BitVec.eq_of_toNat_eq <;> simp [Nat.shiftRight_eq_div_pow] <;> omega
  · match bytes, h with
    | [a, b, c, d], _ =>
      have ha := a.isLt; have hb := b.isLt; have hc := c.isLt; have hd := d.isLt
      simp only [Machine.wordToBytes, Machine.bytesToWord, List.range, List.range.loop, List.map_cons, List.map_nil,
        List.foldl_cons, List.foldl_nil, List.cons.injEq, and_true]
      refine ⟨?_, ?_, ?_, ?_⟩ <;> apply BitVec.eq_of_toNat_eq <;> simp [Nat.shiftRight_eq_div_pow] <;> omega
  · match bytes, h with
    | [a, b, c, d, e, f, g, k], _ =>
      have ha := a.isLt; have hb := b.isLt; have hc := c.isLt; have hd := d.isLt
      have he := e.isLt; have hf := f.isLt; have hg := g.isLt; have hk := k.isLt
      simp only [Machine.wordToBytes, Machine.bytesToWord, List.range, List.range.loop, List.map_cons, List.map_nil,
        List.foldl_cons, List.foldl_nil, List.cons.injEq, and_true]
      refine ⟨?_, ?_, ?_, ?_, ?_, ?_, ?_, ?_⟩ <;> apply BitVec.eq_of_toNat_eq <;>
        simp [Nat.shiftRight_eq_div_pow] <;> omega

/-! ### One instruction in a string of bytes -/

/-- An instruction without an immediate. -/
theorem decode_plain {strict : Bool} {b0 b1 b2 : Byte} {i : Instr} (rest : List Byte)
    (h : decodeBase strict b0 b1 b2 = .ok (.plain i)) : decode strict (b0 :: b1 :: b2 :: rest) = .ok (i, rest) := by
  simp only [decode, h, Header.ilen]
  cases rest <;> rfl

/-- An instruction with a fitting immediate. -/
theorem decode_withImm {strict : Bool} {b0 b1 b2 : Byte} {mk : Imm → Instr} (imm : Imm) (rest : List Byte)
    (h : decodeBase strict b0 b1 b2 = .ok (.withImm imm.size mk)) (hf : imm.fits = true) :
    decode strict (b0 :: b1 :: b2 :: (imm.encode ++ rest)) = .ok (mk imm, rest) := by
  have e : Machine.takeBytes imm.size.bytes (imm.encode ++ rest) = some (imm.encode, rest) := by
    have := Machine.takeBytes_append imm.encode rest
    rwa [Imm.encode_length] at this
  simp only [decode, h, Header.ilen, e, Header.build, Imm.bytesToWord_encode imm hf]

/-- What decodes: its base decodes, and either there is no immediate, or the bytes of a fitting one follow. -/
theorem decode_eq_ok {strict : Bool} {bytes : List Byte} {i : Instr} {rest : List Byte}
    (h : decode strict bytes = .ok (i, rest)) :
    ∃ b0 b1 b2,
      (decodeBase strict b0 b1 b2 = .ok (.plain i) ∧ bytes = b0 :: b1 :: b2 :: rest) ∨
      ∃ imm mk, decodeBase strict b0 b1 b2 = .ok (.withImm imm.size mk) ∧ i = mk imm ∧ imm.fits = true ∧
        bytes = b0 :: b1 :: b2 :: (imm.encode ++ rest) := by
  match bytes, h with
  | [], h => cases h
  | [_], h => cases h
  | [_, _], h => cases h
  | b0 :: b1 :: b2 :: tail, h =>
    refine ⟨b0, b1, b2, ?_⟩
    simp only [decode] at h
    split at h
    · cases h
    · rename_i hd hb
      split at h
      · rename_i front rest' ht
        obtain ⟨h1, h2⟩ := Machine.takeBytes_eq_some ht
        cases hd with
        | plain j =>
          cases h
          simp only [Header.ilen, List.length_eq_zero_iff] at h2
          subst h2
          exact .inl ⟨hb, by rw [h1]; rfl⟩
        | withImm sz mk =>
          cases h
          simp only [Header.ilen] at h2
          refine .inr ⟨{ size := sz, value := Machine.bytesToWord front }, mk, hb, rfl, ?_, ?_⟩
          · simpa [Imm.fits] using Machine.bytesToWord_toNat_lt sz front h2
          · simp only [Imm.encode]
            rw [Machine.wordToBytes_bytesToWord sz front h2, h1]
      · cases h

/-! ### The formats: when each decodes, and to what -/

theorem Fields.unused_eq_ok {f : Fields} {fields : List Nibble} {r : Except DecodeError Header} {h : Header} :
    f.unused fields r = .ok h ↔ (f.strict = true → ∀ n ∈ fields, n = 0) ∧ r = .ok h := by
  unfold Fields.unused
  cases hs : f.strict
  · simp
  · simp only [Bool.true_and, forall_const]
    split
    · rename_i hx
      simp only [List.any_eq_true, bne_iff_ne] at hx
      obtain ⟨n, hn, hne⟩ := hx
      simp only [reduceCtorEq, false_iff, not_and]
      exact fun hall => absurd (hall n hn) hne
    · rename_i hx
      simp only [List.any_eq_true, bne_iff_ne, not_exists, not_and, not_not] at hx
      exact ⟨fun e => ⟨hx, e⟩, fun e => e.2⟩

theorem Fields.sized_eq_ok {f : Fields} {k : Size → Except DecodeError Header} {h : Header} :
    f.sized k = .ok h ↔ ∃ sz, f.size = sz.toNibble ∧ k sz = .ok h := by
  unfold Fields.sized
  split
  · rename_i sz e
    constructor
    · exact fun hk => ⟨sz, Size.ofNibble?_eq_some e, hk⟩
    · rintro ⟨sz', e', hk⟩
      rw [e', Size.ofNibble?_toNibble] at e
      cases e; exact hk
  · rename_i e
    simp only [reduceCtorEq, false_iff, not_exists, not_and]
    intro sz e'
    rw [e', Size.ofNibble?_toNibble] at e
    cases e

theorem Fields.immediate_eq_ok {f : Fields} {mk : Imm → Instr} {h : Header} :
    f.immediate mk = .ok h ↔ ∃ sz, f.b = sz.toNibble ∧ h = .withImm sz mk := by
  unfold Fields.immediate
  split
  · rename_i sz e
    constructor
    · intro hk; cases hk; exact ⟨sz, Size.ofNibble?_eq_some e, rfl⟩
    · rintro ⟨sz', e', hk⟩
      rw [e', Size.ofNibble?_toNibble] at e
      cases e; rw [hk]
  · rename_i e
    simp only [reduceCtorEq, false_iff, not_exists, not_and]
    intro sz e'
    rw [e', Size.ofNibble?_toNibble] at e
    cases e

end Sys2Proof
end

