-- ==== Sys2Proof/Laws/Ops.lean ====
section
/-! SUPPORT. For each shared operation, what it can do, said once: the lemmas later proofs cite instead of unfolding
the operation. -/

namespace Sys2Proof.Machine

/-! ### Outcomes -/

@[simp] theorem conclude_ok (s t : State) : conclude s (.ok t) = .next t := rfl
@[simp] theorem conclude_error (s : State) (f : Fault) : conclude s (.error f) = .next (s.raise f) := rfl

/-- Every outcome of an instruction is a next state: what its body answers, or the state with the fault raised. -/
theorem conclude_eq_next {s t : State} {r : Except Fault State} (h : conclude s r = .next t) :
    r = .ok t ∨ ∃ f, r = .error f ∧ t = s.raise f := by
  cases r with
  | ok u => cases h; exact .inl rfl
  | error f => cases h; exact .inr ⟨f, rfl, rfl⟩

theorem supervisorOnly_supervisor {s : State} {body : Except Fault State} (h : s.mode = .supervisor) :
    supervisorOnly s body = body := by
  simp only [supervisorOnly, h]

theorem supervisorOnly_application {s : State} {body : Except Fault State} (h : s.mode = .application) :
    supervisorOnly s body = .error (.privilegeViolation s.pc) := by
  simp only [supervisorOnly, h]

/-- A privileged body that completes did so in supervisor mode. -/
theorem supervisorOnly_eq_ok {s t : State} {body : Except Fault State} (h : supervisorOnly s body = .ok t) :
    s.mode = .supervisor ∧ body = .ok t := by
  unfold supervisorOnly at h
  split at h
  · rename_i hm; exact ⟨hm, h⟩
  · cases h

/-! ### Reading memory depends on memory and configuration alone -/

theorem readByte_congr {s t : State} (h : t.mem = s.mem) (x : Word) : readByte t x = readByte s x := by
  simp only [readByte, h]

theorem admits_congr {s t : State} (h : t.cfg = s.cfg) (k : AccessKind) (x : Word) (n : Nat) :
    admits t k x n = admits s k x n := by
  simp only [admits, h]

/-- A value read depends on its own bytes and on the byte order of data. -/
theorem loadValue_congr {s t : State} {a : Word} {sz : Size} (hc : t.cfg = s.cfg)
    (hb : ∀ i, i < sz.bytes → readByte t (byteAddr a i) = readByte s (byteAddr a i)) :
    loadValue t a sz = loadValue s a sz := by
  have : readBytes t a sz.bytes = readBytes s a sz.bytes := by
    unfold readBytes
    exact List.map_congr_left fun i hi => hb i (List.mem_range.mp hi)
  simp only [loadValue, hc, this]

theorem addrImm_congr {s t : State} (h : t.cfg = s.cfg) (imm : Imm) : addrImm t imm = addrImm s imm := by
  simp only [addrImm, h]

/-- An effective address depends on the registers and the configuration. -/
theorem ea_congr {s t : State} (hc : t.cfg = s.cfg) (hr : t.regs = s.regs) (sz : Size) (m : MemOperand) :
    ea t sz m = ea s sz m := by
  cases m <;> simp only [ea, State.reg, hr, addrImm, hc]

theorem unaryAddr_congr {s t : State} (hc : t.cfg = s.cfg) (hr : t.regs = s.regs) (u : UnarySource) :
    unaryAddr t u = unaryAddr s u := by
  cases u <;> simp only [unaryAddr, State.reg, hr, addrImm, hc]

/-! ### Memory accesses -/

theorem memRead_eq (s : State) (a : Word) (sz : Size) :
    memRead s a sz = if admits s .read a sz.bytes = true then .ok (loadValue s a sz) else .error (.memoryFault a .read) :=
  rfl

theorem memWrite_eq (s : State) (a : Word) (sz : Size) (v : Word) :
    memWrite s a sz v =
      if admits s .write a sz.bytes = true then .ok (storeValue s a sz v) else .error (.memoryFault a .write) :=
  rfl

/-- A store changes nothing but memory. -/
theorem storeValue_eq (s : State) (a : Word) (sz : Size) (v : Word) :
    storeValue s a sz v = { s with mem := (storeValue s a sz v).mem } := by
  unfold storeValue
  exact writeBytes_eq _ _ _

@[simp] theorem State.regs_storeValue (s : State) (a : Word) (sz : Size) (v : Word) :
    (storeValue s a sz v).regs = s.regs := by rw [storeValue_eq]
@[simp] theorem State.pc_storeValue (s : State) (a : Word) (sz : Size) (v : Word) :
    (storeValue s a sz v).pc = s.pc := by rw [storeValue_eq]
@[simp] theorem State.sp_storeValue (s : State) (a : Word) (sz : Size) (v : Word) :
    (storeValue s a sz v).sp = s.sp := by rw [storeValue_eq]
@[simp] theorem State.zf_storeValue (s : State) (a : Word) (sz : Size) (v : Word) :
    (storeValue s a sz v).zf = s.zf := by rw [storeValue_eq]
@[simp] theorem State.sf_storeValue (s : State) (a : Word) (sz : Size) (v : Word) :
    (storeValue s a sz v).sf = s.sf := by rw [storeValue_eq]
@[simp] theorem State.ovf_storeValue (s : State) (a : Word) (sz : Size) (v : Word) :
    (storeValue s a sz v).ovf = s.ovf := by rw [storeValue_eq]
@[simp] theorem State.mode_storeValue (s : State) (a : Word) (sz : Size) (v : Word) :
    (storeValue s a sz v).mode = s.mode := by rw [storeValue_eq]
@[simp] theorem State.ai_storeValue (s : State) (a : Word) (sz : Size) (v : Word) :
    (storeValue s a sz v).ai = s.ai := by rw [storeValue_eq]
@[simp] theorem State.vt_storeValue (s : State) (a : Word) (sz : Size) (v : Word) :
    (storeValue s a sz v).vt = s.vt := by rw [storeValue_eq]
@[simp] theorem State.settings_storeValue (s : State) (a : Word) (sz : Size) (v : Word) :
    (storeValue s a sz v).settings = s.settings := by rw [storeValue_eq]
@[simp] theorem State.status_storeValue (s : State) (a : Word) (sz : Size) (v : Word) :
    (storeValue s a sz v).status = s.status := by rw [storeValue_eq]
@[simp] theorem State.portTrace_storeValue (s : State) (a : Word) (sz : Size) (v : Word) :
    (storeValue s a sz v).portTrace = s.portTrace := by rw [storeValue_eq]
@[simp] theorem State.irqScript_storeValue (s : State) (a : Word) (sz : Size) (v : Word) :
    (storeValue s a sz v).irqScript = s.irqScript := by rw [storeValue_eq]
@[simp] theorem State.portScript_storeValue (s : State) (a : Word) (sz : Size) (v : Word) :
    (storeValue s a sz v).portScript = s.portScript := by rw [storeValue_eq]
@[simp] theorem State.draws_storeValue (s : State) (a : Word) (sz : Size) (v : Word) :
    (storeValue s a sz v).draws = s.draws := by rw [storeValue_eq]
@[simp] theorem State.cfg_storeValue (s : State) (a : Word) (sz : Size) (v : Word) :
    (storeValue s a sz v).cfg = s.cfg := by rw [storeValue_eq]
@[simp] theorem State.reg_storeValue (s : State) (a : Word) (sz : Size) (v : Word) (q : Reg) :
    (storeValue s a sz v).reg q = s.reg q := by rw [storeValue_eq]; rfl

/-- A store keeps memory in canonical form. -/
theorem memory_wf_storeValue (s : State) (a : Word) (sz : Size) (v : Word) (h : Memory.wf s.mem = true) :
    Memory.wf (storeValue s a sz v).mem = true := by
  unfold storeValue
  exact memory_wf_writeBytes _ _ _ h

/-- A byte outside the bytes stored reads as before. -/
theorem readByte_storeValue_outside (s : State) (a : Word) (sz : Size) (v x : Word)
    (h : ∀ i, i < sz.bytes → x ≠ byteAddr a i) : readByte (storeValue s a sz v) x = readByte s x := by
  unfold storeValue
  exact readByte_writeBytes_outside s a _ x (by simpa using h)

/-! ### The stack -/

theorem push_eq (s : State) (v : Word) (sz : Size) :
    push s v sz =
      if admits s .write (pushAddr s sz) sz.bytes = true then
        .ok ((storeValue s (pushAddr s sz) sz v).setSp (pushAddr s sz))
      else .error (.memoryFault (pushAddr s sz) .write) := by
  unfold push memWrite
  split <;> rename_i h <;> split at h <;> cases h <;> simp_all

theorem pop_eq (s : State) (sz : Size) :
    pop s sz =
      if admits s .read s.sp sz.bytes = true then
        .ok (loadValue s s.sp sz, s.setSp (s.sp + BitVec.ofNat 64 sz.bytes))
      else .error (.memoryFault s.sp .read) := by
  unfold pop memRead
  split <;> rename_i h <;> split at h <;> cases h <;> simp_all

/-! ### Taking an exception and returning -/

theorem trapEntry_eq (resume : Word) (k : Nat) (s : State) :
    trapEntry resume k s =
      if admits s .write (pushAddr s systemWord) systemWord.bytes = true then
        .ok { (storeValue s (pushAddr s systemWord) systemWord resume).setSp (pushAddr s systemWord) with
          mode := modeBy s s.cfg.modeOnEntry, pc := vectorEntry s k }
      else .error (.memoryFault (pushAddr s systemWord) .write) := by
  unfold trapEntry
  rw [push_eq]
  by_cases h : admits s .write (pushAddr s systemWord) systemWord.bytes = true
  · simp only [if_pos h, vectorEntry, State.vt_setSp, State.vt_storeValue]
  · simp only [if_neg h]

theorem trapReturn_eq (s : State) :
    trapReturn s =
      if admits s .read s.sp systemWord.bytes = true then
        .ok { s.setSp (s.sp + BitVec.ofNat 64 systemWord.bytes) with
          ai := true, mode := modeBy s s.cfg.modeOnRti, pc := loadValue s s.sp systemWord }
      else .error (.memoryFault s.sp .read) := by
  unfold trapReturn
  rw [pop_eq]
  by_cases h : admits s .read s.sp systemWord.bytes = true
  · simp only [if_pos h]
  · simp only [if_neg h]

/-! ### Operands -/

/-- The Source operand of a register or an immediate, or of a read that is admitted, has its value. -/
theorem srcVal_of_admitted {s : State} {src : Source} (k : Ext) (h : sourceAdmitted s src = true) :
    srcVal s k src = .ok (sourceValue s k src) := by
  cases src with
  | reg b => rfl
  | imm imm => rfl
  | mem sz m =>
    simp only [sourceAdmitted] at h
    simp only [srcVal, memRead_eq, if_pos h, sourceValue]

/-- The Source operand of a read that is not admitted is the MemoryFault of the read. -/
theorem srcVal_of_not_admitted {s : State} {sz : Size} {m : MemOperand} (k : Ext)
    (h : admits s .read (ea s sz m) sz.bytes = false) :
    srcVal s k (.mem sz m) = .error (.memoryFault (ea s sz m) .read) := by
  simp only [srcVal, memRead_eq, h, Bool.false_eq_true, if_false]

/-- Where an operand has a value, its read was admitted. -/
theorem sourceAdmitted_of_srcVal {s : State} {src : Source} {k : Ext} {v : Word} (h : srcVal s k src = .ok v) :
    sourceAdmitted s src = true ∧ v = sourceValue s k src := by
  cases src with
  | reg b => cases h; exact ⟨rfl, rfl⟩
  | imm imm => cases h; exact ⟨rfl, rfl⟩
  | mem sz m =>
    by_cases ha : admits s .read (ea s sz m) sz.bytes = true
    · have := srcVal_of_admitted (src := .mem sz m) k ha
      rw [this] at h
      cases h; exact ⟨ha, rfl⟩
    · have := srcVal_of_not_admitted (s := s) (sz := sz) (m := m) k (by simpa using ha)
      rw [this] at h
      cases h

/-! ### Results and flags -/

/-- Only DIV can fail to have a result. -/
theorem aluResult_ok (signed : Bool) (op : AluOp) (a b : Word) (h : op ≠ .div) :
    ∃ r, aluResult signed op a b = .ok r := by
  cases op <;> first | exact ⟨_, rfl⟩ | exact absurd rfl h

@[simp] theorem State.regs_aluFlags (s : State) (op : AluOp) (a b r : Word) : (aluFlags s op a b r).regs = s.regs := by
  unfold aluFlags; split <;> rfl
@[simp] theorem State.pc_aluFlags (s : State) (op : AluOp) (a b r : Word) : (aluFlags s op a b r).pc = s.pc := by
  unfold aluFlags; split <;> rfl
@[simp] theorem State.sp_aluFlags (s : State) (op : AluOp) (a b r : Word) : (aluFlags s op a b r).sp = s.sp := by
  unfold aluFlags; split <;> rfl
@[simp] theorem State.mode_aluFlags (s : State) (op : AluOp) (a b r : Word) : (aluFlags s op a b r).mode = s.mode := by
  unfold aluFlags; split <;> rfl
@[simp] theorem State.ai_aluFlags (s : State) (op : AluOp) (a b r : Word) : (aluFlags s op a b r).ai = s.ai := by
  unfold aluFlags; split <;> rfl
@[simp] theorem State.vt_aluFlags (s : State) (op : AluOp) (a b r : Word) : (aluFlags s op a b r).vt = s.vt := by
  unfold aluFlags; split <;> rfl
@[simp] theorem State.settings_aluFlags (s : State) (op : AluOp) (a b r : Word) : (aluFlags s op a b r).settings = s.settings := by
  unfold aluFlags; split <;> rfl
@[simp] theorem State.mem_aluFlags (s : State) (op : AluOp) (a b r : Word) : (aluFlags s op a b r).mem = s.mem := by
  unfold aluFlags; split <;> rfl
@[simp] theorem State.status_aluFlags (s : State) (op : AluOp) (a b r : Word) : (aluFlags s op a b r).status = s.status := by
  unfold aluFlags; split <;> rfl
@[simp] theorem State.portTrace_aluFlags (s : State) (op : AluOp) (a b r : Word) : (aluFlags s op a b r).portTrace = s.portTrace := by
  unfold aluFlags; split <;> rfl
@[simp] theorem State.irqScript_aluFlags (s : State) (op : AluOp) (a b r : Word) : (aluFlags s op a b r).irqScript = s.irqScript := by
  unfold aluFlags; split <;> rfl
@[simp] theorem State.portScript_aluFlags (s : State) (op : AluOp) (a b r : Word) : (aluFlags s op a b r).portScript = s.portScript := by
  unfold aluFlags; split <;> rfl
@[simp] theorem State.cfg_aluFlags (s : State) (op : AluOp) (a b r : Word) : (aluFlags s op a b r).cfg = s.cfg := by
  unfold aluFlags; split <;> rfl
@[simp] theorem State.reg_aluFlags (s : State) (op : AluOp) (a b r : Word) (q : Reg) :
    (aluFlags s op a b r).reg q = s.reg q := by
  unfold aluFlags; split <;> rfl

@[simp] theorem State.regs_compareFlags (s : State) (a b : Word) : (compareFlags s a b).regs = s.regs := rfl
@[simp] theorem State.pc_compareFlags (s : State) (a b : Word) : (compareFlags s a b).pc = s.pc := rfl
@[simp] theorem State.sp_compareFlags (s : State) (a b : Word) : (compareFlags s a b).sp = s.sp := rfl
@[simp] theorem State.mode_compareFlags (s : State) (a b : Word) : (compareFlags s a b).mode = s.mode := rfl
@[simp] theorem State.ai_compareFlags (s : State) (a b : Word) : (compareFlags s a b).ai = s.ai := rfl
@[simp] theorem State.vt_compareFlags (s : State) (a b : Word) : (compareFlags s a b).vt = s.vt := rfl
@[simp] theorem State.settings_compareFlags (s : State) (a b : Word) : (compareFlags s a b).settings = s.settings := rfl
@[simp] theorem State.mem_compareFlags (s : State) (a b : Word) : (compareFlags s a b).mem = s.mem := rfl
@[simp] theorem State.status_compareFlags (s : State) (a b : Word) : (compareFlags s a b).status = s.status := rfl
@[simp] theorem State.portTrace_compareFlags (s : State) (a b : Word) : (compareFlags s a b).portTrace = s.portTrace := rfl
@[simp] theorem State.irqScript_compareFlags (s : State) (a b : Word) : (compareFlags s a b).irqScript = s.irqScript := rfl
@[simp] theorem State.portScript_compareFlags (s : State) (a b : Word) : (compareFlags s a b).portScript = s.portScript := rfl
@[simp] theorem State.draws_compareFlags (s : State) (a b : Word) : (compareFlags s a b).draws = s.draws := rfl
@[simp] theorem State.cfg_compareFlags (s : State) (a b : Word) : (compareFlags s a b).cfg = s.cfg := rfl
@[simp] theorem State.reg_compareFlags (s : State) (a b : Word) (q : Reg) : (compareFlags s a b).reg q = s.reg q := rfl

/-! ### Settings -/

/-- What the changes of SetEffect leave alone, one at a time and all together. -/
theorem applySettings_induction (P : State → Prop) (hP : ∀ s c, P s → P (applySetting s c)) (s : State)
    (cs : List SettingWrite) (h : P s) : P (applySettings s cs) := by
  induction cs generalizing s with
  | nil => exact h
  | cons c rest ih => exact ih _ (hP s c h)

@[simp] theorem State.regs_applySettings (s : State) (cs : List SettingWrite) : (applySettings s cs).regs = s.regs :=
  applySettings_induction (fun t => t.regs = s.regs)
    (fun t c h => by rw [← h]; cases c <;> first | rfl | (rename_i f _; cases f <;> rfl)) s cs rfl
@[simp] theorem State.pc_applySettings (s : State) (cs : List SettingWrite) : (applySettings s cs).pc = s.pc :=
  applySettings_induction (fun t => t.pc = s.pc)
    (fun t c h => by rw [← h]; cases c <;> first | rfl | (rename_i f _; cases f <;> rfl)) s cs rfl
@[simp] theorem State.mem_applySettings (s : State) (cs : List SettingWrite) : (applySettings s cs).mem = s.mem :=
  applySettings_induction (fun t => t.mem = s.mem)
    (fun t c h => by rw [← h]; cases c <;> first | rfl | (rename_i f _; cases f <;> rfl)) s cs rfl
@[simp] theorem State.status_applySettings (s : State) (cs : List SettingWrite) : (applySettings s cs).status = s.status :=
  applySettings_induction (fun t => t.status = s.status)
    (fun t c h => by rw [← h]; cases c <;> first | rfl | (rename_i f _; cases f <;> rfl)) s cs rfl
@[simp] theorem State.portTrace_applySettings (s : State) (cs : List SettingWrite) : (applySettings s cs).portTrace = s.portTrace :=
  applySettings_induction (fun t => t.portTrace = s.portTrace)
    (fun t c h => by rw [← h]; cases c <;> first | rfl | (rename_i f _; cases f <;> rfl)) s cs rfl
@[simp] theorem State.irqScript_applySettings (s : State) (cs : List SettingWrite) : (applySettings s cs).irqScript = s.irqScript :=
  applySettings_induction (fun t => t.irqScript = s.irqScript)
    (fun t c h => by rw [← h]; cases c <;> first | rfl | (rename_i f _; cases f <;> rfl)) s cs rfl
@[simp] theorem State.portScript_applySettings (s : State) (cs : List SettingWrite) : (applySettings s cs).portScript = s.portScript :=
  applySettings_induction (fun t => t.portScript = s.portScript)
    (fun t c h => by rw [← h]; cases c <;> first | rfl | (rename_i f _; cases f <;> rfl)) s cs rfl
@[simp] theorem State.draws_applySettings (s : State) (cs : List SettingWrite) : (applySettings s cs).draws = s.draws :=
  applySettings_induction (fun t => t.draws = s.draws)
    (fun t c h => by rw [← h]; cases c <;> first | rfl | (rename_i f _; cases f <;> rfl)) s cs rfl
@[simp] theorem State.cfg_applySettings (s : State) (cs : List SettingWrite) : (applySettings s cs).cfg = s.cfg :=
  applySettings_induction (fun t => t.cfg = s.cfg)
    (fun t c h => by rw [← h]; cases c <;> first | rfl | (rename_i f _; cases f <;> rfl)) s cs rfl
@[simp] theorem State.reg_applySettings (s : State) (cs : List SettingWrite) (q : Reg) :
    (applySettings s cs).reg q = s.reg q := by
  simp only [State.reg, State.regs_applySettings]

/-! ### The canonical forms -/

theorem State.wf_iff (s : State) :
    s.wf = true ↔ Memory.wf s.mem = true ∧ tableWf s.vt = true ∧ tableWf s.settings = true := by
  simp only [State.wf, Bool.and_eq_true, and_assoc]

/-- The canonical forms depend on memory, the Vector Table and the settings alone. -/
theorem State.wf_congr {s t : State} (hm : t.mem = s.mem) (hv : t.vt = s.vt) (hs : t.settings = s.settings) :
    t.wf = s.wf := by
  simp only [State.wf, hm, hv, hs]

theorem State.wf_storeValue {s : State} (a : Word) (sz : Size) (v : Word) (h : s.wf = true) :
    (storeValue s a sz v).wf = true := by
  rw [State.wf_iff] at h ⊢
  exact ⟨memory_wf_storeValue s a sz v h.1, by simpa using h.2.1, by simpa using h.2.2⟩

theorem State.wf_applySettings {s : State} (cs : List SettingWrite) (h : s.wf = true) :
    (applySettings s cs).wf = true := by
  refine applySettings_induction (fun t => t.wf = true) (fun t c ht => ?_) s cs h
  rw [State.wf_iff] at ht ⊢
  cases c with
  | sp v => exact ht
  | flag f b => cases f <;> exact ht
  | mode m => exact ht
  | ai b => exact ht
  | vector k v => exact ⟨ht.1, tableWf_tableWrite _ _ _ ht.2.1, ht.2.2⟩
  | setting key value => exact ⟨ht.1, ht.2.1, tableWf_tableWrite _ _ _ ht.2.2⟩

/-! ### Addresses -/

/-- The address of the following instruction, one part at a time. -/
theorem nextPc_eq (s : State) (ilen : Nat) : nextPc s ilen = s.pc + 3 + BitVec.ofNat 64 ilen := by
  unfold nextPc
  rw [BitVec.add_assoc]
  congr 1
  apply BitVec.eq_of_toNat_eq
  simp [BitVec.toNat_add]

@[simp] theorem byteAddr_zero (a : Word) : byteAddr a 0 = a := by simp [byteAddr]

/-- Bytes counted from a later address. -/
theorem byteAddr_add (a : Word) (k i : Nat) : byteAddr (a + BitVec.ofNat 64 k) i = byteAddr a (k + i) := by
  unfold byteAddr
  rw [BitVec.add_assoc]
  congr 1
  apply BitVec.eq_of_toNat_eq
  simp [BitVec.toNat_add]

theorem holeCovers_eq_false (h : Hole) (a : Word) :
    holeCovers h a = false ↔ ¬(h.base ≤ a.toNat ∧ a.toNat < h.base + h.size) := by
  simp only [← Bool.not_eq_true, holeCovers, Bool.and_eq_true, decide_eq_true_eq]

/-- An access is admitted exactly when every hole of its kind leaves it alone: one without a width covers none of its
bytes, one with its width does not cover its address (20_memory.md R51, 60_exceptions.md R265). -/
theorem admits_iff (s : State) (k : AccessKind) (a : Word) (n : Nat) :
    admits s k a n = true ↔
      ∀ h ∈ s.cfg.holes, h.kind = k →
        (h.width = none → ∀ i, i < n → holeCovers h (byteAddr a i) = false) ∧
        (h.width = some n → holeCovers h a = false) := by
  simp only [admits, List.all_eq_true]
  refine forall₂_congr fun h _ => ?_
  cases hw : h.width with
  | none =>
    simp only [holeRefuses, hw, Bool.not_eq_true', Bool.and_eq_false_imp, decide_eq_true_eq, List.any_eq_false,
      List.mem_range, Bool.not_eq_true, forall_const, reduceCtorEq, false_implies, and_true]
  | some w =>
    simp only [holeRefuses, hw, Bool.not_eq_true', Bool.and_eq_false_imp, decide_eq_true_eq, reduceCtorEq,
      false_implies, true_and, Option.some.injEq]

/-- Instruction bytes are admitted exactly when each of them is (20_memory.md R57). -/
theorem admitsFetch_iff (s : State) (a : Word) (n : Nat) :
    admitsFetch s a n = true ↔ ∀ i, i < n → admits s .fetch (byteAddr a i) 1 = true := by
  simp only [admitsFetch, List.all_eq_true, List.mem_range]

/-- With no hole every access is admitted (20_memory.md R51). -/
theorem admits_of_no_holes {s : State} (h : s.cfg.holes = []) (k : AccessKind) (a : Word) (n : Nat) :
    admits s k a n = true := by
  simp only [admits, h, List.all_nil]

/-! ### The mode after an exception is taken or returned from -/

/-- Where no case holds, the last function from mode to mode applies. -/
theorem chosenModeMap_otherwise (s : State) (o : ModeMap) (cases : List ModeCase)
    (h : ∀ c ∈ cases, caseHolds s c = false) : chosenModeMap s o cases = o := by
  induction cases with
  | nil => rfl
  | cons c rest ih =>
    rw [chosenModeMap, h c (by simp), if_neg (by simp), ih fun d hd => h d (by simp [hd])]

/-- The first case that holds applies. -/
theorem chosenModeMap_first (s : State) (o : ModeMap) (before after : List ModeCase) (c : ModeCase)
    (hb : ∀ b ∈ before, caseHolds s b = false) (hc : caseHolds s c = true) :
    chosenModeMap s o (before ++ c :: after) = c.result := by
  induction before with
  | nil => simp only [List.nil_append, chosenModeMap, hc, if_true]
  | cons b rest ih =>
    rw [List.cons_append, chosenModeMap, hb b (by simp), if_neg (by simp), ih fun d hd => hb d (by simp [hd])]

theorem caseHolds_iff (s : State) (c : ModeCase) :
    caseHolds s c = true ↔ ∀ q ∈ c.tests, settingValue s q.key &&& q.mask = q.value := by
  simp only [caseHolds, List.all_eq_true, decide_eq_true_eq]

/-- The mode given depends on the settings and the mode. -/
theorem modeBy_congr {s t : State} (hs : t.settings = s.settings) (hm : t.mode = s.mode) (r : ModeRule) :
    modeBy t r = modeBy s r := by
  have h : ∀ c : ModeCase, caseHolds t c = caseHolds s c := fun c => by
    rw [Bool.eq_iff_iff, caseHolds_iff, caseHolds_iff]
    simp only [settingValue, hs]
  have e : ∀ cases : List ModeCase, chosenModeMap t r.otherwise cases = chosenModeMap s r.otherwise cases := by
    intro cases
    induction cases with
    | nil => rfl
    | cons c rest ih => rw [chosenModeMap, chosenModeMap, h c, ih]
  rw [modeBy, modeBy, e, hm]

@[simp] theorem modeBy_sampled (s : State) (r : ModeRule) : modeBy (sampled s) r = modeBy s r :=
  modeBy_congr (State.settings_sampled s) (State.mode_sampled s) r

/-- The mode given is the one the rule says (60_exceptions.md R283). -/
theorem modeBy_spec (s : State) (r : ModeRule) : ModeBy s r (modeBy s r) := by
  have maps : ∀ f : ModeMap, (s.mode = .supervisor → applyModeMap f s.mode = f.fromSupervisor) ∧
      (s.mode = .application → applyModeMap f s.mode = f.fromApplication) :=
    fun f => ⟨fun h => by rw [h]; rfl, fun h => by rw [h]; rfl⟩
  have fails : ∀ c : ModeCase, ¬(∀ q ∈ c.tests, settingValue s q.key &&& q.mask = q.value) → caseHolds s c = false :=
    fun c h => Bool.eq_false_iff.mpr fun hc => h ((caseHolds_iff s c).mp hc)
  refine ⟨fun before c after hr hb hc => ?_, fun hn => ?_⟩
  · rw [modeBy, hr, chosenModeMap_first s _ before after c (fun b m => fails b (hb b m)) ((caseHolds_iff s c).mpr hc)]
    exact maps _
  · rw [modeBy, chosenModeMap_otherwise s _ _ fun c m => fails c (hn c m)]
    exact maps _

/-! ### The tables after one write -/

theorem vectorEntry_applySetting (s : State) (k j : Nat) (v : Word) :
    vectorEntry (applySetting s (.vector k v)) j = if j = k then v else vectorEntry s j := by
  simp only [vectorEntry, applySetting, tableRead_tableWrite, eq_comm]

theorem settingValue_applySetting (s : State) (key q v : Word) :
    settingValue (applySetting s (.setting key v)) q = if q = key then v else settingValue s q := by
  simp only [settingValue, applySetting, tableRead_tableWrite, BitVec.toNat_inj, eq_comm]

/-! ### Port inputs -/

/-- The value of a port read, where an input is supplied, is its low bytes (45_system.md R246). -/
theorem portInput_supplied {s : State} {v : Word} {later : List Word} (h : s.portScript = v :: later) (port : Word)
    (sz : Size) : portInput s port sz = truncate sz v := by
  simp only [portInput, h]

/-! ### Frames -/

theorem sameSystem_refl (s : State) : SameSystem s s := ⟨⟨rfl, rfl, rfl, rfl⟩, ⟨rfl, rfl⟩, rfl, rfl, rfl⟩

/-- Memory with the same entries reads the same. -/
theorem sameMemory_of_mem {s t : State} (h : t.mem = s.mem) : SameMemory s t := readByte_congr h

end Sys2Proof.Machine
end

