-- ==== Sys2Proof/Laws/Operation.lean ====
section
/-! SUPPORT. `exec` by operation: the meaning of an instruction is its operation run on the state, so that a case split
over 117 constructors becomes one over nineteen operations. -/

namespace Sys2Proof.Machine

/-- An operation run on a state: the shared operation that the meanings of its instructions call. -/
def Operation.run : Operation → State → Result
  | .binary op a src => binaryAlu op a src
  | .unary op a => unaryAlu op a
  | .compare a src => compareOperands a src
  | .load k a src => Machine.load k a src
  | .address a sz m => loadAddress a sz m
  | .store a sz m => Machine.store a sz m
  | .push sz src => pushOperand sz src
  | .pop sz a => popRegister sz a
  | .mark a => markFrame a
  | .free a => freeFrame a
  | .call target => Machine.call target
  | .jump c target => Machine.jump c target
  | .ret => execRet
  | .nop => execNop
  | .portIn a sz src => Machine.portIn a sz src
  | .portOut a sz src => Machine.portOut a sz src
  | .setting a sz src => setSetting a sz src
  | .sys => execSys
  | .rti => execRti

/-- The meaning of an instruction is its operation. -/
theorem exec_eq_run (i : Instr) (s : State) : exec i s = i.operation.run s := by
  cases i <;> rfl

/-- The immediate bytes of an operation. -/
def Operation.ilen : Operation → Nat
  | .binary _ _ src => Source.ilen src
  | .unary _ _ => 0
  | .compare _ src => Source.ilen src
  | .load _ _ src => Source.ilen src
  | .address _ _ m => MemOperand.ilen m
  | .store _ _ m => MemOperand.ilen m
  | .push _ src => UnarySource.ilen src
  | .pop _ _ => 0
  | .mark _ => 0
  | .free _ => 0
  | .call target => UnarySource.ilen target
  | .jump _ target => UnarySource.ilen target
  | .ret => 0
  | .nop => 0
  | .portIn _ _ src => Source.ilen src
  | .portOut _ _ src => Source.ilen src
  | .setting _ _ src => Source.ilen src
  | .sys => 0
  | .rti => 0

theorem ilen_eq_operation (i : Instr) : i.ilen = i.operation.ilen := by
  cases i <;> rfl

/-- The operations that only supervisor mode may run (45_system.md R240). -/
def Operation.privileged : Operation → Bool
  | .portIn _ _ _ => true
  | .portOut _ _ _ => true
  | .setting _ _ _ => true
  | .rti => true
  | _ => false

theorem privileged_eq_operation (i : Instr) : i.privileged = i.operation.privileged := by
  cases i <;> rfl

/-! ### The instructions of one mnemonic, by operation -/

@[simp] theorem operation_addInstr (a : Reg) (src : Source) : (addInstr a src).operation = .binary .add a src := by
  rcases src with b | imm | ⟨sz, m⟩ <;> first | rfl | (cases m <;> rfl)
@[simp] theorem operation_andInstr (a : Reg) (src : Source) : (andInstr a src).operation = .binary .and a src := by
  rcases src with b | imm | ⟨sz, m⟩ <;> first | rfl | (cases m <;> rfl)
@[simp] theorem operation_divInstr (a : Reg) (src : Source) : (divInstr a src).operation = .binary .div a src := by
  rcases src with b | imm | ⟨sz, m⟩ <;> first | rfl | (cases m <;> rfl)
@[simp] theorem operation_mulInstr (a : Reg) (src : Source) : (mulInstr a src).operation = .binary .mul a src := by
  rcases src with b | imm | ⟨sz, m⟩ <;> first | rfl | (cases m <;> rfl)
@[simp] theorem operation_orInstr (a : Reg) (src : Source) : (orInstr a src).operation = .binary .or a src := by
  rcases src with b | imm | ⟨sz, m⟩ <;> first | rfl | (cases m <;> rfl)
@[simp] theorem operation_subInstr (a : Reg) (src : Source) : (subInstr a src).operation = .binary .sub a src := by
  rcases src with b | imm | ⟨sz, m⟩ <;> first | rfl | (cases m <;> rfl)
@[simp] theorem operation_xorInstr (a : Reg) (src : Source) : (xorInstr a src).operation = .binary .xor a src := by
  rcases src with b | imm | ⟨sz, m⟩ <;> first | rfl | (cases m <;> rfl)
@[simp] theorem operation_cmpInstr (a : Reg) (src : Source) : (cmpInstr a src).operation = .compare a src := by
  rcases src with b | imm | ⟨sz, m⟩ <;> first | rfl | (cases m <;> rfl)
@[simp] theorem operation_lduInstr (a : Reg) (src : Source) : (lduInstr a src).operation = .load .zero a src := by
  rcases src with b | imm | ⟨sz, m⟩ <;> first | rfl | (cases m <;> rfl)
@[simp] theorem operation_ldrInstr (a : Reg) (src : Source) : (ldrInstr a src).operation = .load .sign a src := by
  rcases src with b | imm | ⟨sz, m⟩ <;> first | rfl | (cases m <;> rfl)
@[simp] theorem operation_inInstr (sz : Size) (a : Reg) (src : SizedSource) :
    (inInstr sz a src).operation = .portIn a sz (src.withSize sz) := by
  rcases src with b | imm | m <;> first | rfl | (cases m <;> rfl)
@[simp] theorem operation_outInstr (sz : Size) (a : Reg) (src : SizedSource) :
    (outInstr sz a src).operation = .portOut a sz (src.withSize sz) := by
  rcases src with b | imm | m <;> first | rfl | (cases m <;> rfl)
@[simp] theorem operation_setInstr (sz : Size) (a : Reg) (src : SizedSource) :
    (setInstr sz a src).operation = .setting a sz (src.withSize sz) := by
  rcases src with b | imm | m <;> first | rfl | (cases m <;> rfl)
@[simp] theorem operation_strInstr (sz : Size) (a : Reg) (m : MemOperand) :
    (strInstr sz a m).operation = .store a sz m := by
  cases m <;> rfl
@[simp] theorem operation_pushInstr (sz : Size) (u : UnarySource) : (pushInstr sz u).operation = .push sz u := by
  cases u <;> rfl
@[simp] theorem operation_callInstr (u : UnarySource) : (callInstr u).operation = .call u := by
  cases u <;> rfl
@[simp] theorem operation_jccInstr (c : Cond) (u : UnarySource) : (jccInstr c u).operation = .jump c u := by
  cases u <;> cases c <;> rfl

/-- LEA: in the modes without an index the Size code plays no part. -/
theorem exec_leaInstr (sz : Size) (a : Reg) (m : MemOperand) (s : State) :
    exec (leaInstr sz a m) s = loadAddress a sz m s := by
  cases m <;> rfl

/-! ### What an operation can do -/

/-- What an operation that does not fault makes of a state: which parts it writes, with the addresses it stores to and
where pc goes, and, for the privileged ones, the mode it needs. The values it writes are left open where no frame needs
them. -/
def Operation.Effect (s t : State) : Operation → Prop
  | .binary op a src => ∃ x y r, t = ((aluFlags s op x y r).setReg a r).setPc (nextPc s (Source.ilen src))
  | .unary op a => ∃ x y r, t = ((aluFlags s op x y r).setReg a r).setPc (nextPc s 0)
  | .compare _ src => ∃ x y, t = (compareFlags s x y).setPc (nextPc s (Source.ilen src))
  | .load _ a src => ∃ v, t = (s.setReg a v).setPc (nextPc s (Source.ilen src))
  | .address a sz m => t = (s.setReg a (ea s sz m)).setPc (nextPc s (MemOperand.ilen m))
  | .store a sz m => t = (storeValue s (ea s sz m) sz (s.reg a)).setPc (nextPc s (MemOperand.ilen m))
  | .push sz src =>
    t = ((storeValue s (pushAddr s sz) sz (unaryData s src)).setSp (pushAddr s sz)).setPc
      (nextPc s (UnarySource.ilen src))
  | .pop _ a => ∃ v p, t = ((s.setSp p).setReg a v).setPc (nextPc s 0)
  | .mark a =>
    ∃ v w,
      t = (((storeValue s (pushAddr s systemWord) systemWord v).setSp (pushAddr s systemWord)).setReg a w).setPc
        (nextPc s 0)
  | .free a => ∃ v p, t = ((s.setSp p).setReg a v).setPc (nextPc s 0)
  | .call tg =>
    ∃ v,
      t = ((storeValue s (pushAddr s systemWord) systemWord v).setSp (pushAddr s systemWord)).setPc (unaryAddr s tg)
  | .jump _ _ => ∃ p, t = s.setPc p
  | .ret => ∃ p q, t = (s.setSp p).setPc q
  | .nop => t = s.setPc (nextPc s 0)
  | .portIn a sz src =>
    s.mode = .supervisor ∧ ∃ p v, t = ((portReadState s p sz).setReg a v).setPc (nextPc s (Source.ilen src))
  | .portOut _ sz src =>
    s.mode = .supervisor ∧ ∃ p v, t = (portWriteState s p sz v).setPc (nextPc s (Source.ilen src))
  | .setting _ _ src => s.mode = .supervisor ∧ ∃ cs, t = (applySettings s cs).setPc (nextPc s (Source.ilen src))
  | .sys =>
    ∃ v m k,
      t = { (storeValue s (pushAddr s systemWord) systemWord v).setSp (pushAddr s systemWord) with mode := m, pc := k }
  | .rti => s.mode = .supervisor ∧ ∃ p m q, t = { s.setSp p with ai := true, mode := m, pc := q }

/-- Every operation answers a next state: a fault raised on the state as it was, or its effect. -/
theorem run_cases (o : Operation) (s : State) :
    ∃ t, o.run s = .next t ∧ ((∃ f, t = s.raise f) ∨ Operation.Effect s t o) := by
  cases o with
  | binary op a src =>
    simp only [Operation.run, binaryAlu]
    split
    · exact ⟨_, rfl, .inl ⟨_, rfl⟩⟩
    · split
      · exact ⟨_, rfl, .inl ⟨_, rfl⟩⟩
      · exact ⟨_, rfl, .inr ⟨_, _, _, rfl⟩⟩
  | unary op a =>
    simp only [Operation.run, unaryAlu]
    split
    · exact ⟨_, rfl, .inl ⟨_, rfl⟩⟩
    · exact ⟨_, rfl, .inr ⟨_, _, _, rfl⟩⟩
  | compare a src =>
    simp only [Operation.run, compareOperands]
    split
    · exact ⟨_, rfl, .inl ⟨_, rfl⟩⟩
    · exact ⟨_, rfl, .inr ⟨_, _, rfl⟩⟩
  | load k a src =>
    simp only [Operation.run, load]
    split
    · exact ⟨_, rfl, .inr ⟨_, rfl⟩⟩
    · exact ⟨_, rfl, .inl ⟨_, rfl⟩⟩
  | address a sz m => exact ⟨_, rfl, .inr rfl⟩
  | store a sz m =>
    simp only [Operation.run, Machine.store, memWrite_eq]
    split
    · rename_i h; split at h <;> cases h; exact ⟨_, rfl, .inr rfl⟩
    · exact ⟨_, rfl, .inl ⟨_, rfl⟩⟩
  | push sz src =>
    simp only [Operation.run, pushOperand, push_eq]
    split
    · rename_i h; split at h <;> cases h; exact ⟨_, rfl, .inr rfl⟩
    · exact ⟨_, rfl, .inl ⟨_, rfl⟩⟩
  | pop sz a =>
    simp only [Operation.run, popRegister, pop_eq]
    split
    · rename_i h; split at h <;> cases h; exact ⟨_, rfl, .inr ⟨_, _, rfl⟩⟩
    · exact ⟨_, rfl, .inl ⟨_, rfl⟩⟩
  | mark a =>
    simp only [Operation.run, markFrame, push_eq]
    split
    · rename_i h; split at h <;> cases h; exact ⟨_, rfl, .inr ⟨_, _, rfl⟩⟩
    · exact ⟨_, rfl, .inl ⟨_, rfl⟩⟩
  | free a =>
    simp only [Operation.run, freeFrame]
    split
    · exact ⟨_, rfl, .inr ⟨_, _, rfl⟩⟩
    · exact ⟨_, rfl, .inl ⟨_, rfl⟩⟩
  | call tg =>
    simp only [Operation.run, call, push_eq]
    split
    · rename_i h; split at h <;> cases h; exact ⟨_, rfl, .inr ⟨_, rfl⟩⟩
    · exact ⟨_, rfl, .inl ⟨_, rfl⟩⟩
  | jump c tg => exact ⟨_, rfl, .inr ⟨_, rfl⟩⟩
  | ret =>
    simp only [Operation.run, execRet, pop_eq]
    split
    · rename_i h; split at h <;> cases h; exact ⟨_, rfl, .inr ⟨_, _, rfl⟩⟩
    · exact ⟨_, rfl, .inl ⟨_, rfl⟩⟩
  | nop => exact ⟨_, rfl, .inr rfl⟩
  | portIn a sz src =>
    simp only [Operation.run, portIn]
    cases hm : s.mode
    · rw [supervisorOnly_supervisor hm]
      split
      · exact ⟨_, rfl, .inr ⟨hm, _, _, rfl⟩⟩
      · exact ⟨_, rfl, .inl ⟨_, rfl⟩⟩
    · rw [supervisorOnly_application hm]; exact ⟨_, rfl, .inl ⟨_, rfl⟩⟩
  | portOut a sz src =>
    simp only [Operation.run, portOut]
    cases hm : s.mode
    · rw [supervisorOnly_supervisor hm]
      split
      · exact ⟨_, rfl, .inr ⟨hm, _, _, rfl⟩⟩
      · exact ⟨_, rfl, .inl ⟨_, rfl⟩⟩
    · rw [supervisorOnly_application hm]; exact ⟨_, rfl, .inl ⟨_, rfl⟩⟩
  | setting a sz src =>
    simp only [Operation.run, setSetting]
    cases hm : s.mode
    · rw [supervisorOnly_supervisor hm]
      split
      · exact ⟨_, rfl, .inr ⟨hm, _, rfl⟩⟩
      · exact ⟨_, rfl, .inl ⟨_, rfl⟩⟩
    · rw [supervisorOnly_application hm]; exact ⟨_, rfl, .inl ⟨_, rfl⟩⟩
  | sys =>
    simp only [Operation.run, execSys, trapEntry_eq]
    split
    · exact ⟨_, rfl, .inr ⟨_, _, _, rfl⟩⟩
    · exact ⟨_, rfl, .inl ⟨_, rfl⟩⟩
  | rti =>
    simp only [Operation.run, execRti, trapReturn_eq]
    cases hm : s.mode
    · rw [supervisorOnly_supervisor hm]
      split
      · exact ⟨_, rfl, .inr ⟨hm, _, _, _, rfl⟩⟩
      · exact ⟨_, rfl, .inl ⟨_, rfl⟩⟩
    · rw [supervisorOnly_application hm]; exact ⟨_, rfl, .inl ⟨_, rfl⟩⟩

/-- The same of an instruction. -/
theorem exec_cases (i : Instr) (s : State) :
    ∃ t, exec i s = .next t ∧ ((∃ f, t = s.raise f) ∨ Operation.Effect s t i.operation) := by
  rw [exec_eq_run]
  exact run_cases i.operation s

/-- What an instruction answered is a fault raised on the state as it was, or its effect. -/
theorem exec_effect {i : Instr} {s t : State} (h : exec i s = .next t) :
    (∃ f, t = s.raise f) ∨ Operation.Effect s t i.operation := by
  obtain ⟨u, hu, he⟩ := exec_cases i s
  rw [hu] at h
  cases h
  exact he

end Sys2Proof.Machine
end

