-- ==== Sys2Proof/Laws/Fetch.lean ====
section
/-! SUPPORT. What fetching answers, and what a step is when no interrupt is accepted. -/

namespace Sys2Proof.Machine

/-- Bytes that MemMap admits are fetched as memory holds them. -/
theorem fetchBytes_of_admits {s : State} {a : Word} {n : Nat} (h : admitsFetch s a n = true) :
    fetchBytes s a n = .ok (readBytes s a n) := by
  rw [admitsFetch_iff] at h
  induction n generalizing a with
  | zero => rfl
  | succ n ih =>
    have e : ∀ i, byteAddr (a + 1) i = byteAddr a (i + 1) := fun i => by
      rw [Nat.add_comm]; exact byteAddr_add a 1 i
    have h0 := h 0 (by omega)
    rw [byteAddr_zero] at h0
    have ht := ih (a := a + 1) fun i hi => by rw [e]; exact h (i + 1) (by omega)
    simp only [fetchBytes, fetchByte, h0, if_true, ht, readBytes, List.range_succ_eq_map, List.map_cons,
      List.map_map, byteAddr_zero]
    congr 2
    apply List.map_congr_left
    intro i _
    simp only [Function.comp, e]

/-- With its base admitted, an instruction is decoded from the three bytes at pc. -/
theorem fetchInstr_of_admits {s : State} (h : admitsFetch s s.pc 3 = true) :
    fetchInstr s = fetchDecoded s (readByte s s.pc) (readByte s (s.pc + 1)) (readByte s (s.pc + 2)) := by
  have e : readBytes s s.pc 3 = [readByte s s.pc, readByte s (s.pc + 1), readByte s (s.pc + 2)] := by
    simp [readBytes, List.range, List.range.loop, byteAddr]
  simp only [fetchInstr, fetchBytes_of_admits h, e]

/-- A step that accepts no interrupt runs an instruction. -/
theorem step_eq_runInstr {s : State} (hr : s.status = .running) (h : s.ai = false ∨ irqRequest s = none) :
    step s = runInstr (sampled s) := by
  unfold step
  simp only [hr]
  cases ha : s.ai
  · rfl
  · rcases h with h | h
    · rw [h] at ha; cases ha
    · simp only [h]

/-- A step that accepts an interrupt is the interrupt's entry. -/
theorem step_eq_interruptEntry {s : State} {k : Nat} (hr : s.status = .running) (ha : s.ai = true)
    (hk : irqRequest s = some k) : step s = interruptEntry k (sampled s) := by
  unfold step
  simp only [hr, ha, hk]

/-- A running machine either enters an interrupt or runs an instruction. -/
theorem step_cases {s : State} (hr : s.status = .running) :
    (∃ k, s.ai = true ∧ irqRequest s = some k ∧ step s = interruptEntry k (sampled s)) ∨
      (step s = runInstr (sampled s) ∧ (s.ai = false ∨ irqRequest s = none)) := by
  cases ha : s.ai
  · exact .inr ⟨step_eq_runInstr hr (.inl ha), .inl rfl⟩
  · cases hk : irqRequest s with
    | none => exact .inr ⟨step_eq_runInstr hr (.inr hk), .inr rfl⟩
    | some k => exact .inl ⟨k, rfl, rfl, step_eq_interruptEntry hr ha hk⟩

/-- Running an instruction is the meaning of the one fetched, or the fault of fetching it. -/
theorem runInstr_cases (s : State) :
    (∃ i, fetchInstr s = .ok i ∧ runInstr s = exec i s) ∨ (∃ f, fetchInstr s = .error f ∧ runInstr s = .next (s.raise f)) := by
  unfold runInstr
  cases h : fetchInstr s with
  | ok i => exact .inl ⟨i, rfl, rfl⟩
  | error f => exact .inr ⟨f, rfl, rfl⟩

end Sys2Proof.Machine
end

