-- ==== Sys2Proof/Laws/PerInstr.lean ====
section
/-! SUPPORT. Families of statements about the instructions as syntax, one lemma for each constructor. -/

namespace Sys2Proof.Laws

/-- The encoding of an instruction has three base bytes and the bytes of its immediate (30_encoding.md R80, R88). -/
def EncodingLength.Statement (i : Instr) : Prop := (encode i).length = 3 + i.ilen

/-- Three base bytes and an immediate. -/
theorem length_withImm {i : Instr} {imm : Imm} {b0 b1 b2 : Byte} (he : encode i = [b0, b1, b2] ++ imm.encode)
    (hi : i.imm? = some imm) : EncodingLength.Statement i := by
  simp only [EncodingLength.Statement, Instr.ilen, hi, he, List.length_append, Imm.encode_length, List.length_cons,
    List.length_nil]

theorem EncodingLength.andRegReg (a b : Reg) : EncodingLength.Statement (.andRegReg a b) := rfl
theorem EncodingLength.andRegImm (a : Reg) (imm : Imm) : EncodingLength.Statement (.andRegImm a imm) :=
  length_withImm rfl rfl
theorem EncodingLength.andRegInd (sz : Size) (a b : Reg) : EncodingLength.Statement (.andRegInd sz a b) := rfl
theorem EncodingLength.andRegDir (sz : Size) (a : Reg) (imm : Imm) : EncodingLength.Statement (.andRegDir sz a imm) :=
  length_withImm rfl rfl
theorem EncodingLength.andRegIndIdx (idx : Reg) (sz : Size) (a b : Reg) : EncodingLength.Statement (.andRegIndIdx idx sz a b) := rfl
theorem EncodingLength.andRegDirIdx (idx : Reg) (sz : Size) (a : Reg) (imm : Imm) : EncodingLength.Statement (.andRegDirIdx idx sz a imm) :=
  length_withImm rfl rfl
theorem EncodingLength.orRegReg (a b : Reg) : EncodingLength.Statement (.orRegReg a b) := rfl
theorem EncodingLength.orRegImm (a : Reg) (imm : Imm) : EncodingLength.Statement (.orRegImm a imm) :=
  length_withImm rfl rfl
theorem EncodingLength.orRegInd (sz : Size) (a b : Reg) : EncodingLength.Statement (.orRegInd sz a b) := rfl
theorem EncodingLength.orRegDir (sz : Size) (a : Reg) (imm : Imm) : EncodingLength.Statement (.orRegDir sz a imm) :=
  length_withImm rfl rfl
theorem EncodingLength.orRegIndIdx (idx : Reg) (sz : Size) (a b : Reg) : EncodingLength.Statement (.orRegIndIdx idx sz a b) := rfl
theorem EncodingLength.orRegDirIdx (idx : Reg) (sz : Size) (a : Reg) (imm : Imm) : EncodingLength.Statement (.orRegDirIdx idx sz a imm) :=
  length_withImm rfl rfl
theorem EncodingLength.xorRegReg (a b : Reg) : EncodingLength.Statement (.xorRegReg a b) := rfl
theorem EncodingLength.xorRegImm (a : Reg) (imm : Imm) : EncodingLength.Statement (.xorRegImm a imm) :=
  length_withImm rfl rfl
theorem EncodingLength.xorRegInd (sz : Size) (a b : Reg) : EncodingLength.Statement (.xorRegInd sz a b) := rfl
theorem EncodingLength.xorRegDir (sz : Size) (a : Reg) (imm : Imm) : EncodingLength.Statement (.xorRegDir sz a imm) :=
  length_withImm rfl rfl
theorem EncodingLength.xorRegIndIdx (idx : Reg) (sz : Size) (a b : Reg) : EncodingLength.Statement (.xorRegIndIdx idx sz a b) := rfl
theorem EncodingLength.xorRegDirIdx (idx : Reg) (sz : Size) (a : Reg) (imm : Imm) : EncodingLength.Statement (.xorRegDirIdx idx sz a imm) :=
  length_withImm rfl rfl
theorem EncodingLength.addRegReg (a b : Reg) : EncodingLength.Statement (.addRegReg a b) := rfl
theorem EncodingLength.addRegImm (a : Reg) (imm : Imm) : EncodingLength.Statement (.addRegImm a imm) :=
  length_withImm rfl rfl
theorem EncodingLength.addRegInd (sz : Size) (a b : Reg) : EncodingLength.Statement (.addRegInd sz a b) := rfl
theorem EncodingLength.addRegDir (sz : Size) (a : Reg) (imm : Imm) : EncodingLength.Statement (.addRegDir sz a imm) :=
  length_withImm rfl rfl
theorem EncodingLength.addRegIndIdx (idx : Reg) (sz : Size) (a b : Reg) : EncodingLength.Statement (.addRegIndIdx idx sz a b) := rfl
theorem EncodingLength.addRegDirIdx (idx : Reg) (sz : Size) (a : Reg) (imm : Imm) : EncodingLength.Statement (.addRegDirIdx idx sz a imm) :=
  length_withImm rfl rfl
theorem EncodingLength.subRegReg (a b : Reg) : EncodingLength.Statement (.subRegReg a b) := rfl
theorem EncodingLength.subRegImm (a : Reg) (imm : Imm) : EncodingLength.Statement (.subRegImm a imm) :=
  length_withImm rfl rfl
theorem EncodingLength.subRegInd (sz : Size) (a b : Reg) : EncodingLength.Statement (.subRegInd sz a b) := rfl
theorem EncodingLength.subRegDir (sz : Size) (a : Reg) (imm : Imm) : EncodingLength.Statement (.subRegDir sz a imm) :=
  length_withImm rfl rfl
theorem EncodingLength.subRegIndIdx (idx : Reg) (sz : Size) (a b : Reg) : EncodingLength.Statement (.subRegIndIdx idx sz a b) := rfl
theorem EncodingLength.subRegDirIdx (idx : Reg) (sz : Size) (a : Reg) (imm : Imm) : EncodingLength.Statement (.subRegDirIdx idx sz a imm) :=
  length_withImm rfl rfl
theorem EncodingLength.mulRegReg (a b : Reg) : EncodingLength.Statement (.mulRegReg a b) := rfl
theorem EncodingLength.mulRegImm (a : Reg) (imm : Imm) : EncodingLength.Statement (.mulRegImm a imm) :=
  length_withImm rfl rfl
theorem EncodingLength.mulRegInd (sz : Size) (a b : Reg) : EncodingLength.Statement (.mulRegInd sz a b) := rfl
theorem EncodingLength.mulRegDir (sz : Size) (a : Reg) (imm : Imm) : EncodingLength.Statement (.mulRegDir sz a imm) :=
  length_withImm rfl rfl
theorem EncodingLength.mulRegIndIdx (idx : Reg) (sz : Size) (a b : Reg) : EncodingLength.Statement (.mulRegIndIdx idx sz a b) := rfl
theorem EncodingLength.mulRegDirIdx (idx : Reg) (sz : Size) (a : Reg) (imm : Imm) : EncodingLength.Statement (.mulRegDirIdx idx sz a imm) :=
  length_withImm rfl rfl
theorem EncodingLength.divRegReg (a b : Reg) : EncodingLength.Statement (.divRegReg a b) := rfl
theorem EncodingLength.divRegImm (a : Reg) (imm : Imm) : EncodingLength.Statement (.divRegImm a imm) :=
  length_withImm rfl rfl
theorem EncodingLength.divRegInd (sz : Size) (a b : Reg) : EncodingLength.Statement (.divRegInd sz a b) := rfl
theorem EncodingLength.divRegDir (sz : Size) (a : Reg) (imm : Imm) : EncodingLength.Statement (.divRegDir sz a imm) :=
  length_withImm rfl rfl
theorem EncodingLength.divRegIndIdx (idx : Reg) (sz : Size) (a b : Reg) : EncodingLength.Statement (.divRegIndIdx idx sz a b) := rfl
theorem EncodingLength.divRegDirIdx (idx : Reg) (sz : Size) (a : Reg) (imm : Imm) : EncodingLength.Statement (.divRegDirIdx idx sz a imm) :=
  length_withImm rfl rfl
theorem EncodingLength.lduRegReg (a b : Reg) : EncodingLength.Statement (.lduRegReg a b) := rfl
theorem EncodingLength.lduRegImm (a : Reg) (imm : Imm) : EncodingLength.Statement (.lduRegImm a imm) :=
  length_withImm rfl rfl
theorem EncodingLength.lduRegInd (sz : Size) (a b : Reg) : EncodingLength.Statement (.lduRegInd sz a b) := rfl
theorem EncodingLength.lduRegDir (sz : Size) (a : Reg) (imm : Imm) : EncodingLength.Statement (.lduRegDir sz a imm) :=
  length_withImm rfl rfl
theorem EncodingLength.lduRegIndIdx (idx : Reg) (sz : Size) (a b : Reg) : EncodingLength.Statement (.lduRegIndIdx idx sz a b) := rfl
theorem EncodingLength.lduRegDirIdx (idx : Reg) (sz : Size) (a : Reg) (imm : Imm) : EncodingLength.Statement (.lduRegDirIdx idx sz a imm) :=
  length_withImm rfl rfl
theorem EncodingLength.ldrRegReg (a b : Reg) : EncodingLength.Statement (.ldrRegReg a b) := rfl
theorem EncodingLength.ldrRegImm (a : Reg) (imm : Imm) : EncodingLength.Statement (.ldrRegImm a imm) :=
  length_withImm rfl rfl
theorem EncodingLength.ldrRegInd (sz : Size) (a b : Reg) : EncodingLength.Statement (.ldrRegInd sz a b) := rfl
theorem EncodingLength.ldrRegDir (sz : Size) (a : Reg) (imm : Imm) : EncodingLength.Statement (.ldrRegDir sz a imm) :=
  length_withImm rfl rfl
theorem EncodingLength.ldrRegIndIdx (idx : Reg) (sz : Size) (a b : Reg) : EncodingLength.Statement (.ldrRegIndIdx idx sz a b) := rfl
theorem EncodingLength.ldrRegDirIdx (idx : Reg) (sz : Size) (a : Reg) (imm : Imm) : EncodingLength.Statement (.ldrRegDirIdx idx sz a imm) :=
  length_withImm rfl rfl
theorem EncodingLength.cmpRegReg (a b : Reg) : EncodingLength.Statement (.cmpRegReg a b) := rfl
theorem EncodingLength.cmpRegImm (a : Reg) (imm : Imm) : EncodingLength.Statement (.cmpRegImm a imm) :=
  length_withImm rfl rfl
theorem EncodingLength.cmpRegInd (sz : Size) (a b : Reg) : EncodingLength.Statement (.cmpRegInd sz a b) := rfl
theorem EncodingLength.cmpRegDir (sz : Size) (a : Reg) (imm : Imm) : EncodingLength.Statement (.cmpRegDir sz a imm) :=
  length_withImm rfl rfl
theorem EncodingLength.cmpRegIndIdx (idx : Reg) (sz : Size) (a b : Reg) : EncodingLength.Statement (.cmpRegIndIdx idx sz a b) := rfl
theorem EncodingLength.cmpRegDirIdx (idx : Reg) (sz : Size) (a : Reg) (imm : Imm) : EncodingLength.Statement (.cmpRegDirIdx idx sz a imm) :=
  length_withImm rfl rfl
theorem EncodingLength.inRegReg (sz : Size) (a b : Reg) : EncodingLength.Statement (.inRegReg sz a b) := rfl
theorem EncodingLength.inRegImm (sz : Size) (a : Reg) (imm : Imm) : EncodingLength.Statement (.inRegImm sz a imm) :=
  length_withImm rfl rfl
theorem EncodingLength.inRegInd (sz : Size) (a b : Reg) : EncodingLength.Statement (.inRegInd sz a b) := rfl
theorem EncodingLength.inRegDir (sz : Size) (a : Reg) (imm : Imm) : EncodingLength.Statement (.inRegDir sz a imm) :=
  length_withImm rfl rfl
theorem EncodingLength.inRegIndIdx (idx : Reg) (sz : Size) (a b : Reg) : EncodingLength.Statement (.inRegIndIdx idx sz a b) := rfl
theorem EncodingLength.inRegDirIdx (idx : Reg) (sz : Size) (a : Reg) (imm : Imm) : EncodingLength.Statement (.inRegDirIdx idx sz a imm) :=
  length_withImm rfl rfl
theorem EncodingLength.outRegReg (sz : Size) (a b : Reg) : EncodingLength.Statement (.outRegReg sz a b) := rfl
theorem EncodingLength.outRegImm (sz : Size) (a : Reg) (imm : Imm) : EncodingLength.Statement (.outRegImm sz a imm) :=
  length_withImm rfl rfl
theorem EncodingLength.outRegInd (sz : Size) (a b : Reg) : EncodingLength.Statement (.outRegInd sz a b) := rfl
theorem EncodingLength.outRegDir (sz : Size) (a : Reg) (imm : Imm) : EncodingLength.Statement (.outRegDir sz a imm) :=
  length_withImm rfl rfl
theorem EncodingLength.outRegIndIdx (idx : Reg) (sz : Size) (a b : Reg) : EncodingLength.Statement (.outRegIndIdx idx sz a b) := rfl
theorem EncodingLength.outRegDirIdx (idx : Reg) (sz : Size) (a : Reg) (imm : Imm) : EncodingLength.Statement (.outRegDirIdx idx sz a imm) :=
  length_withImm rfl rfl
theorem EncodingLength.setRegReg (sz : Size) (a b : Reg) : EncodingLength.Statement (.setRegReg sz a b) := rfl
theorem EncodingLength.setRegImm (sz : Size) (a : Reg) (imm : Imm) : EncodingLength.Statement (.setRegImm sz a imm) :=
  length_withImm rfl rfl
theorem EncodingLength.setRegInd (sz : Size) (a b : Reg) : EncodingLength.Statement (.setRegInd sz a b) := rfl
theorem EncodingLength.setRegDir (sz : Size) (a : Reg) (imm : Imm) : EncodingLength.Statement (.setRegDir sz a imm) :=
  length_withImm rfl rfl
theorem EncodingLength.setRegIndIdx (idx : Reg) (sz : Size) (a b : Reg) : EncodingLength.Statement (.setRegIndIdx idx sz a b) := rfl
theorem EncodingLength.setRegDirIdx (idx : Reg) (sz : Size) (a : Reg) (imm : Imm) : EncodingLength.Statement (.setRegDirIdx idx sz a imm) :=
  length_withImm rfl rfl
theorem EncodingLength.strRegInd (sz : Size) (a b : Reg) : EncodingLength.Statement (.strRegInd sz a b) := rfl
theorem EncodingLength.strRegDir (sz : Size) (a : Reg) (imm : Imm) : EncodingLength.Statement (.strRegDir sz a imm) :=
  length_withImm rfl rfl
theorem EncodingLength.strRegIndIdx (idx : Reg) (sz : Size) (a b : Reg) : EncodingLength.Statement (.strRegIndIdx idx sz a b) := rfl
theorem EncodingLength.strRegDirIdx (idx : Reg) (sz : Size) (a : Reg) (imm : Imm) : EncodingLength.Statement (.strRegDirIdx idx sz a imm) :=
  length_withImm rfl rfl
theorem EncodingLength.leaRegInd (a b : Reg) : EncodingLength.Statement (.leaRegInd a b) := rfl
theorem EncodingLength.leaRegDir (a : Reg) (imm : Imm) : EncodingLength.Statement (.leaRegDir a imm) :=
  length_withImm rfl rfl
theorem EncodingLength.leaRegIndIdx (idx : Reg) (sz : Size) (a b : Reg) : EncodingLength.Statement (.leaRegIndIdx idx sz a b) := rfl
theorem EncodingLength.leaRegDirIdx (idx : Reg) (sz : Size) (a : Reg) (imm : Imm) : EncodingLength.Statement (.leaRegDirIdx idx sz a imm) :=
  length_withImm rfl rfl
theorem EncodingLength.notReg (a : Reg) : EncodingLength.Statement (.notReg a) := rfl
theorem EncodingLength.negReg (a : Reg) : EncodingLength.Statement (.negReg a) := rfl
theorem EncodingLength.freeReg (a : Reg) : EncodingLength.Statement (.freeReg a) := rfl
theorem EncodingLength.markReg (a : Reg) : EncodingLength.Statement (.markReg a) := rfl
theorem EncodingLength.popReg (sz : Size) (a : Reg) : EncodingLength.Statement (.popReg sz a) := rfl
theorem EncodingLength.pushReg (sz : Size) (b : Reg) : EncodingLength.Statement (.pushReg sz b) := rfl
theorem EncodingLength.pushImm (sz : Size) (imm : Imm) : EncodingLength.Statement (.pushImm sz imm) :=
  length_withImm rfl rfl
theorem EncodingLength.callReg (b : Reg) : EncodingLength.Statement (.callReg b) := rfl
theorem EncodingLength.callImm (imm : Imm) : EncodingLength.Statement (.callImm imm) :=
  length_withImm rfl rfl
theorem EncodingLength.jneReg (b : Reg) : EncodingLength.Statement (.jneReg b) := rfl
theorem EncodingLength.jneImm (imm : Imm) : EncodingLength.Statement (.jneImm imm) :=
  length_withImm rfl rfl
theorem EncodingLength.jeReg (b : Reg) : EncodingLength.Statement (.jeReg b) := rfl
theorem EncodingLength.jeImm (imm : Imm) : EncodingLength.Statement (.jeImm imm) :=
  length_withImm rfl rfl
theorem EncodingLength.jgReg (b : Reg) : EncodingLength.Statement (.jgReg b) := rfl
theorem EncodingLength.jgImm (imm : Imm) : EncodingLength.Statement (.jgImm imm) :=
  length_withImm rfl rfl
theorem EncodingLength.jgeReg (b : Reg) : EncodingLength.Statement (.jgeReg b) := rfl
theorem EncodingLength.jgeImm (imm : Imm) : EncodingLength.Statement (.jgeImm imm) :=
  length_withImm rfl rfl
theorem EncodingLength.jlReg (b : Reg) : EncodingLength.Statement (.jlReg b) := rfl
theorem EncodingLength.jlImm (imm : Imm) : EncodingLength.Statement (.jlImm imm) :=
  length_withImm rfl rfl
theorem EncodingLength.jleReg (b : Reg) : EncodingLength.Statement (.jleReg b) := rfl
theorem EncodingLength.jleImm (imm : Imm) : EncodingLength.Statement (.jleImm imm) :=
  length_withImm rfl rfl
theorem EncodingLength.jnoReg (b : Reg) : EncodingLength.Statement (.jnoReg b) := rfl
theorem EncodingLength.jnoImm (imm : Imm) : EncodingLength.Statement (.jnoImm imm) :=
  length_withImm rfl rfl
theorem EncodingLength.joReg (b : Reg) : EncodingLength.Statement (.joReg b) := rfl
theorem EncodingLength.joImm (imm : Imm) : EncodingLength.Statement (.joImm imm) :=
  length_withImm rfl rfl
theorem EncodingLength.jmpReg (b : Reg) : EncodingLength.Statement (.jmpReg b) := rfl
theorem EncodingLength.jmpImm (imm : Imm) : EncodingLength.Statement (.jmpImm imm) :=
  length_withImm rfl rfl
theorem EncodingLength.ret : EncodingLength.Statement (.ret) := rfl
theorem EncodingLength.sys : EncodingLength.Statement (.sys) := rfl
theorem EncodingLength.rti : EncodingLength.Statement (.rti) := rfl
theorem EncodingLength.nop : EncodingLength.Statement (.nop) := rfl

end Sys2Proof.Laws
end

