-- ==== Sys2Proof/Machine/Assembler.lean ====
section
/-! DEFINITION. The assembler syntax of the source's examples (30_encoding.md R110 to R115, 10_state.md R21): from the
text of a line to an instruction. A spelling that the spec does not settle is not assembled (log 38). -/

namespace Sys2Proof.Asm

/-- A token of a line: a word (a mnemonic, a register or a number) or a mark. -/
inductive Token where
  | word (w : String)
  | comma
  | opening
  | closing
  | plus
  | star
  deriving DecidableEq, Repr

/-- The mark a character is, if it is one. -/
def mark? (c : Char) : Option Token :=
  match c with
  | ',' => some .comma
  | '[' => some .opening
  | ']' => some .closing
  | '+' => some .plus
  | '*' => some .star
  | _ => none

/-- The word gathered so far (its letters in reverse), before the tokens that follow. -/
def endWord (letters : List Char) (rest : List Token) : List Token :=
  if letters.isEmpty then rest else .word (String.ofList letters.reverse) :: rest

/-- The tokens of a line; blanks only separate. -/
def tokens : List Char → List Char → List Token
  | [], letters => endWord letters []
  | c :: rest, letters =>
    match mark? c with
    | some t => endWord letters (t :: tokens rest [])
    | none => if c = ' ' then endWord letters (tokens rest []) else tokens rest (c :: letters)

/-- A register's name: generic, or an alias, which names the whole register (10_state.md R20, R21). -/
def register? (name : String) : Option Reg :=
  match name with
  | "r0" => some .r0 | "r1" => some .r1 | "r2" => some .r2 | "r3" => some .r3
  | "r4" => some .r4 | "r5" => some .r5 | "r6" => some .r6 | "r7" => some .r7
  | "r8" => some .r8 | "r9" => some .r9 | "r10" => some .r10 | "r11" => some .r11
  | "r12" => some .r12 | "r13" => some .r13 | "r14" => some .r14 | "r15" => some .r15
  | "rax" => some .r0 | "eax" => some .r0 | "rbx" => some .r1 | "ebx" => some .r1
  | "rcx" => some .r2 | "ecx" => some .r2 | "rdx" => some .r3 | "edx" => some .r3
  | "rsi" => some .r4 | "esi" => some .r4 | "rdi" => some .r5 | "edi" => some .r5
  | _ => none

/-- The value of a string of decimal digits, the digits before it making `acc` (30_encoding.md R110). -/
def digits? (acc : Nat) : List Char → Option Nat
  | [] => some acc
  | c :: rest =>
    if 48 ≤ c.toNat ∧ c.toNat ≤ 57 then digits? (acc * 10 + (c.toNat - 48)) rest else none

/-- The immediate that holds a number in the fewest bytes (30_encoding.md R111). The spec does not say how a number is
sized that fits its bytes as unsigned but not as signed: such a number is not assembled (log 38). -/
def immediate? (n : Nat) : Option Imm :=
  if n < 2 ^ 7 then some { size := .b1, value := BitVec.ofNat 64 n }
  else if n < 2 ^ 8 then none
  else if n < 2 ^ 15 then some { size := .b2, value := BitVec.ofNat 64 n }
  else if n < 2 ^ 16 then none
  else if n < 2 ^ 31 then some { size := .b4, value := BitVec.ofNat 64 n }
  else if n < 2 ^ 32 then none
  else if n < 2 ^ 63 then some { size := .b8, value := BitVec.ofNat 64 n }
  else none

/-- The immediate a word writes. -/
def number? (w : String) : Option Imm :=
  match w.toList with
  | [] => none
  | cs =>
    match digits? 0 cs with
    | some n => immediate? n
    | none => none

/-- The Size code of a scale: the operand size in bytes (30_encoding.md R112). -/
def scale? (w : String) : Option Size :=
  match w with
  | "1" => some .b1
  | "2" => some .b2
  | "4" => some .b4
  | "8" => some .b8
  | _ => none

/-- An operand as written (30_encoding.md R111); a scaled index carries the Size code of its scale. -/
inductive Operand where
  | reg (r : Reg)
  | num (imm : Imm)
  | mem (m : MemOperand)
  | memScaled (sz : Size) (m : MemOperand)
  deriving DecidableEq, Repr

/-- The operand that its tokens write (30_encoding.md R111). -/
def operand? : List Token → Option Operand
  | [.word w] =>
    match register? w, number? w with
    | some r, _ => some (.reg r)
    | none, some imm => some (.num imm)
    | none, none => none
  | [.opening, .word w, .closing] =>
    match register? w, number? w with
    | some r, _ => some (.mem (.ind r))
    | none, some imm => some (.mem (.dir imm))
    | none, none => none
  | [.opening, .word w, .plus, .word i, .star, .word k, .closing] =>
    match register? i, scale? k, register? w, number? w with
    | some idx, some sz, some r, _ => some (.memScaled sz (.indIdx idx r))
    | some idx, some sz, none, some imm => some (.memScaled sz (.dirIdx idx imm))
    | _, _, _, _ => none
  | _ => none

/-- The tokens before the first comma and those after it, if there is one. -/
def splitComma : List Token → List Token × Option (List Token)
  | [] => ([], none)
  | t :: rest =>
    if t = .comma then ([], some rest)
    else
      match splitComma rest with
      | (front, back) => (t :: front, back)

/-- The operands of a line: none, one or two (30_encoding.md R110). -/
def operands? (ts : List Token) : Option (List Operand) :=
  match ts with
  | [] => some []
  | ts =>
    match splitComma ts with
    | (front, none) =>
      match operand? front with
      | some a => some [a]
      | none => none
    | (front, some back) =>
      match operand? front, operand? back with
      | some a, some b => some [a, b]
      | _, _ => none

/-- The mnemonic without its size suffix, and whether it has the suffix `q`, which selects 8 bytes (30_encoding.md
R112). Mnemonics are in capitals (R110). -/
def suffix (w : String) : String × Bool :=
  match w.toList.reverse with
  | 'q' :: rest => (String.ofList rest.reverse, true)
  | _ => (w, false)

/-- The Size code of a mnemonic without a scale: `q` selects 8 bytes, no suffix 1 byte (30_encoding.md R112). -/
def suffixSize (q : Bool) : Size := if q then .b8 else .b1

/-- The Source operand of an instruction that uses the Size code in the memory modes only. A suffix where the Size code
is not used, or beside a scale, is not assembled (log 38). -/
def source? (q : Bool) : Operand → Option Source
  | .reg r => if q then none else some (.reg r)
  | .num imm => if q then none else some (.imm imm)
  | .mem m => some (.mem (suffixSize q) m)
  | .memScaled sz m => if q then none else some (.mem sz m)

/-- The Size code and Source operand of IN, OUT and SET. -/
def sizedSource? (q : Bool) : Operand → Option (Size × SizedSource)
  | .reg r => some (suffixSize q, .reg r)
  | .num imm => some (suffixSize q, .imm imm)
  | .mem m => some (suffixSize q, .mem m)
  | .memScaled sz m => if q then none else some (sz, .mem m)

/-- The Size code and memory operand of STR. -/
def memory? (q : Bool) : Operand → Option (Size × MemOperand)
  | .reg _ => none
  | .num _ => none
  | .mem m => some (suffixSize q, m)
  | .memScaled sz m => if q then none else some (sz, m)

/-- The operand of PUSH, CALL and Jcc. -/
def unary? : Operand → Option UnarySource
  | .reg r => some (.reg r)
  | .num imm => some (.imm imm)
  | .mem _ => none
  | .memScaled _ _ => none

/-- The two-operand instructions with a Source operand, with their aliases (30_encoding.md R113). MOV with a register
destination is LDR. -/
def binary? (m : String) : Option (Reg → Source → Instr) :=
  match m with
  | "ADD" => some addInstr
  | "AND" => some andInstr
  | "CMP" => some cmpInstr
  | "DIV" => some divInstr
  | "IDIV" => some divInstr
  | "MUL" => some mulInstr
  | "IMUL" => some mulInstr
  | "OR" => some orInstr
  | "SUB" => some subInstr
  | "XOR" => some xorInstr
  | "LDU" => some lduInstr
  | "LDR" => some ldrInstr
  | "MOV" => some ldrInstr
  | _ => none

/-- IN, OUT and SET. -/
def system? (m : String) : Option (Size → Reg → SizedSource → Instr) :=
  match m with
  | "IN" => some inInstr
  | "OUT" => some outInstr
  | "SET" => some setInstr
  | _ => none

/-- The condition of a Jcc mnemonic (44_control.md R216). -/
def condition? (m : String) : Option Cond :=
  match m with
  | "JNE" => some .ne
  | "JE" => some .e
  | "JG" => some .g
  | "JGE" => some .ge
  | "JL" => some .l
  | "JLE" => some .le
  | "JNO" => some .no
  | "JO" => some .o
  | "JMP" => some .always
  | _ => none

/-- A line without operands. -/
def assembleBare (m : String) (q : Bool) : Option Instr :=
  if q then none
  else
    match m with
    | "RET" => some .ret
    | "SYS" => some .sys
    | "SYSCALL" => some .sys
    | "RTI" => some .rti
    | "NOP" => some .nop
    | _ => none

/-- A line with one register that is written, or with one operand that is read. -/
def assembleUnary (m : String) (q : Bool) (o : Operand) : Option Instr :=
  match m, q, o, unary? o with
  | "NOT", false, .reg a, _ => some (.notReg a)
  | "NEG", false, .reg a, _ => some (.negReg a)
  | "FREE", false, .reg a, _ => some (.freeReg a)
  | "MARK", false, .reg a, _ => some (.markReg a)
  | "POP", _, .reg a, _ => some (.popReg (suffixSize q) a)
  | "PUSH", _, _, some u => some (pushInstr (suffixSize q) u)
  | "CALL", false, _, some u => some (callInstr u)
  | "JSR", false, _, some u => some (callInstr u)
  | m, false, _, some u =>
    match condition? m with
    | some c => some (jccInstr c u)
    | none => none
  | _, _, _, _ => none

/-- A line whose first operand is a register. STR is written register first (30_encoding.md R115). -/
def assembleRegister (m : String) (q : Bool) (a : Reg) (o : Operand) : Option Instr :=
  match m with
  | "STR" =>
    match memory? q o with
    | some (sz, mem) => some (strInstr sz a mem)
    | none => none
  | "LEA" =>
    match q, o with
    | false, .mem mem => some (leaInstr .b1 a mem)
    | false, .memScaled sz mem => some (leaInstr sz a mem)
    | _, _ => none
  | m =>
    match binary? m, system? m with
    | some mk, _ =>
      match source? q o with
      | some src => some (mk a src)
      | none => none
    | none, some mk =>
      match sizedSource? q o with
      | some (sz, src) => some (mk sz a src)
      | none => none
    | none, none => none

/-- A line with two operands. MOV with a memory destination is STR, the destination written first (30_encoding.md R113,
R115). -/
def assembleBinary (m : String) (q : Bool) (first second : Operand) : Option Instr :=
  match first with
  | .reg a => assembleRegister m q a second
  | _ =>
    match m, second, memory? q first with
    | "MOV", .reg a, some (sz, mem) => some (strInstr sz a mem)
    | _, _, _ => none

/-- The instruction that a line of text writes (30_encoding.md R110). -/
def assemble (line : String) : Option Instr :=
  match tokens line.toList [] with
  | .word w :: rest =>
    match suffix w, operands? rest with
    | (m, q), some [] => assembleBare m q
    | (m, q), some [a] => assembleUnary m q a
    | (m, q), some [a, b] => assembleBinary m q a b
    | _, _ => none
  | _ => none

/-- The bytes of the instruction that a line of text writes. -/
def assembleBytes (line : String) : Option (List Byte) :=
  match assemble line with
  | some i => some (encode i)
  | none => none

end Sys2Proof.Asm
end

