-- ==== Sys2Proof/Tests/Slice0.lean ====
section
/-! SUPPORT. The tests: decoding of words written out from the spec, the smoke test of WellFormed, single steps whose
expected results are the vectors of spec/95_test_vectors.md (V<k>), the assembler, and a witness for the hypotheses of
each statement. -/

namespace Sys2Proof.Machine

/-! ### Small states -/

/-- A machine as after reset, with bytes at 0x1000, pc there, SP at 0x8000 and the entry for applications at 0xC00. -/
def at1000 (bytes : List Byte) : State :=
  writeBytes { State.boot { defaultConfig with applicationIndex := 5 } with
    pc := 0x1000, sp := 0x8000, vt := [(5, 0xC00)] } 0x1000 bytes

/-- With bytes placed in memory. -/
def State.put (s : State) (a : Word) (bytes : List Byte) : State := writeBytes s a bytes

/-- In application mode. -/
def State.inApplication (s : State) : State := { s with mode := .application }

/-- With a port input to come. -/
def State.input (s : State) (v : Word) : State := { s with portScript := [v] }

/-- With interrupts allowed and a request to come. -/
def State.request (s : State) (r : Option Nat) : State := { s with ai := true, irqScript := [r] }

/-- With one byte that MemMap does not admit for one kind of access. -/
def State.hole (s : State) (kind : AccessKind) (a : Nat) : State :=
  { s with cfg := { s.cfg with holes := [{ base := a, size := 1, kind := kind, width := none }] } }

/-- With another reading of what ALU instructions do to the flags. -/
def State.aluFlags (s : State) (k : AluFlags) : State := { s with cfg := { s.cfg with aluFlags := k } }

/-- One step answers a next state of which `p` holds. -/
def after (s : State) (p : State → Bool) : Bool :=
  match step s with
  | .next t => p t
  | .fault _ => false
  | .refused _ => false

end Sys2Proof.Machine

namespace Sys2Proof.Tests

open Machine

/-! ### Decoding: words written out from the encodings and examples of the spec -/

/-- 41_arith_logic.md R142 to R154: ADD r4, 15; SUB r3, r7; AND, OR, XOR, MUL, DIV with an immediate; NEG, NOT; CMP. -/
theorem test_decode_arith :
    decode true [0x33, 0x00, 0x40, 0x0F] = .ok (.addRegImm .r4 { size := .b1, value := 15 }, []) ∧
    decode true [0x42, 0x00, 0x37] = .ok (.subRegReg .r3 .r7, []) ∧
    decode true [0x04, 0x03, 0x26] = .ok (.andRegInd .b8 .r2 .r6, []) ∧
    decode true [0x16, 0x93, 0x45] = .ok (.orRegIndIdx .r9 .b8 .r4 .r5, []) ∧
    decode true [0x27, 0x93, 0x41, 0x07, 0x9B] = .ok (.xorRegDirIdx .r9 .b8 .r4 { size := .b2, value := 1947 }, []) ∧
    decode true [0x55, 0x02, 0x41, 0x07, 0x9B] = .ok (.mulRegDir .b4 .r4 { size := .b2, value := 1947 }, []) ∧
    decode true [0x62, 0x00, 0x37] = .ok (.divRegReg .r3 .r7, []) ∧
    decode true [0x18, 0x00, 0x40] = .ok (.negReg .r4, []) ∧ decode true [0x08, 0x00, 0x40] = .ok (.notReg .r4, []) ∧
    decode true [0xC4, 0x03, 0x26] = .ok (.cmpRegInd .b8 .r2 .r6, []) := by decide

/-- 42_load_store.md R170 to R173: LDU, LDR, LEA, STR. -/
theorem test_decode_load_store :
    decode true [0xA4, 0x00, 0x26] = .ok (.lduRegInd .b1 .r2 .r6, []) ∧
    decode true [0xB2, 0x00, 0x57] = .ok (.ldrRegReg .r5 .r7, []) ∧
    decode true [0xE4, 0x00, 0x26] = .ok (.leaRegInd .r2 .r6, []) ∧
    decode true [0xE7, 0x91, 0x41, 0xFF, 0xFE] = .ok (.leaRegDirIdx .r9 .b2 .r4 { size := .b2, value := 0xFFFE }, []) ∧
    decode true [0xD6, 0x93, 0x45] = .ok (.strRegIndIdx .r9 .b8 .r4 .r5, []) := by decide

/-- 43_stack.md R193 to R196, 44_control.md R212, R216, R230, R232: the stack and control transfer. -/
theorem test_decode_stack_control :
    decode true [0x58, 0x03, 0x07] = .ok (.pushReg .b8 .r7, []) ∧ decode true [0x48, 0x00, 0x40] = .ok (.popReg .b1 .r4, []) ∧
    decode true [0x38, 0x00, 0x40] = .ok (.markReg .r4, []) ∧ decode true [0x28, 0x00, 0x40] = .ok (.freeReg .r4, []) ∧
    decode true [0x78, 0x00, 0x05] = .ok (.callReg .r5, []) ∧ decode true [0x68, 0x00, 0xF7] = .ok (.jmpReg .r7, []) ∧
    decode true [0x69, 0x00, 0x61, 0x07, 0x9B] = .ok (.jnoImm { size := .b2, value := 1947 }, []) ∧
    decode true [0xF8, 0x00, 0x00] = .ok (.ret, []) ∧ decode true [0xFF, 0x00, 0x00] = .ok (.nop, []) := by decide

/-- 45_system.md R241 to R252: IN, OUT, SET, SYS, RTI. -/
theorem test_decode_system :
    decode true [0xBA, 0x00, 0x37] = .ok (.inRegReg .b1 .r3 .r7, []) ∧
    decode true [0xCB, 0x03, 0x41, 0x07, 0x9B] = .ok (.outRegImm .b8 .r4 { size := .b2, value := 1947 }, []) ∧
    decode true [0xDE, 0x93, 0x45] = .ok (.setRegIndIdx .r9 .b8 .r4 .r5, []) ∧
    decode true [0xF9, 0x00, 0x00] = .ok (.sys, []) ∧ decode true [0xFA, 0x00, 0x00] = .ok (.rti, []) := by decide

/-- 30_encoding.md R104: a non-zero unused field is an error under STRICT_RESERVED and ignored otherwise. -/
theorem test_unused_fields :
    decode true [0x33, 0x04, 0x40, 0x0F] = .error .unusedField ∧
    decode false [0x33, 0x04, 0x40, 0x0F] = .ok (.addRegImm .r4 { size := .b1, value := 15 }, []) := by decide

/-- A string that ends within the instruction is no instruction. -/
theorem test_truncated : decode false [0x33, 0x00, 0x41, 0x07] = .error .truncated ∧ decode false [] = .error .truncated := by
  decide

/-- The table's numbering of the bits of ADD r4, 15: 33 is the high byte of the base (log 31). -/
theorem test_table_word : decodeTableWord 24 0x330040 = some (.addRegImm .r4 { size := .b1, value := 0 }) := by decide

/-! ### WellFormed refuses an immediate that does not fit its bytes -/

theorem test_wf_refuses :
    (Instr.addRegImm .r3 { size := .b1, value := 0x100 }).wf = false ∧
    (Instr.pushImm .b8 { size := .b2, value := 0x10000 }).wf = false ∧
    (Instr.jmpImm { size := .b4, value := 0x100000000 }).wf = false ∧
    (Instr.setRegDirIdx .r9 .b8 .r4 { size := .b1, value := 0xFFFFFFFFFFFFFFFF }).wf = false := by decide

theorem test_wf_accepts :
    (Instr.addRegImm .r3 { size := .b1, value := 0xFF }).wf = true ∧
    (Instr.jmpImm { size := .b8, value := 0xFFFFFFFFFFFFFFFF }).wf = true ∧ Instr.nop.wf = true := by decide

/-! ### The flags under ALU_FLAGS = result, the step on a fault, interrupts -/

/-- 41_arith_logic.md R141, 10_state.md R29: 0x4000000000000000 doubled does not fit. -/
theorem test_add_flags :
    after (((at1000 [0x32, 0x00, 0x33]).setReg .r3 0x4000000000000000).aluFlags .result)
      (fun t => !t.zf ∧ t.sf ∧ t.ovf) := by decide

/-- 41_arith_logic.md R141: with ALU_FLAGS = preserve the flags stay. -/
theorem test_xor_preserves_flags :
    after (((at1000 [0x22, 0x00, 0x33]).setFlags false true true).aluFlags .preserve)
      (fun t => !t.zf ∧ t.sf ∧ t.ovf ∧ t.reg .r3 = 0) := by decide

/-- 60_exceptions.md R272: an accepted interrupt saves the pc of the instruction it displaces. -/
theorem test_interrupt :
    after ((at1000 [0xFF, 0x00, 0x00]).request (some 5))
      (fun t => t.pc = 0xC00 ∧ t.sp = 0x7FF8 ∧ !t.ai ∧ readBytes t 0x7FF8 8 = [0, 0, 0, 0, 0, 0, 0x10, 0]) := by decide

/-- 60_exceptions.md R262: a faulted machine takes no step. -/
theorem test_faulted_stays : step ((at1000 [0xFF, 0x00, 0x00]).raise .divideError) = .fault .divideError := rfl

/-- 45_system.md R240: a privileged instruction whose immediate lies where MemMap admits no fetch (60_exceptions.md
R274). -/
theorem test_privilege_before_immediate :
    after (((at1000 [0xBB, 0x00, 0x30, 0x0F]).hole .fetch 0x1003).inApplication)
      (fun t => t.status = .faulted (.privilegeViolation 0x1000)) := by decide

/-- 60_exceptions.md R283: a modeOnRTI that reads the mode to return to from a setting; otherwise the mode stays. -/
def rtiBySetting (settings : List (Nat × Word)) : State :=
  let s := (at1000 [0xFA, 0x00, 0x00]).put 0x8000 [0, 0, 0, 0, 0, 0, 0x20, 0]
  { s with
    settings := settings
    cfg := { s.cfg with
      modeOnRti :=
        { cases := [{ tests := [{ key := 9, mask := 1, value := 1 }]
                      result := { fromSupervisor := .application, fromApplication := .application } }]
          otherwise := { fromSupervisor := .supervisor, fromApplication := .application } } } }

theorem test_rti_mode_from_setting :
    after (rtiBySetting [(9, 3)]) (fun t => t.pc = 0x2000 ∧ t.mode = .application ∧ t.ai) ∧
    after (rtiBySetting [(9, 2)]) (fun t => t.mode = .supervisor) := by decide

/-- 20_memory.md R51: a MemMap that refuses words of eight bytes at an address and admits its bytes one by one. -/
theorem test_memMap_by_size :
    let s := at1000 []
    let u := { s with cfg := { s.cfg with holes := [{ base := 0x2000, size := 8, kind := .read, width := some 8 }] } }
    admits u .read 0x2000 8 = false ∧ admits u .read 0x2000 1 = true ∧ admits u .read 0x1FFF 8 = true ∧
    admits u .write 0x2000 8 = true := by decide

/-- 40_operands.md R129: the upper bits of the value do not reach the setting. -/
theorem test_set_truncates (s : State) (key : Word) : setEffect s key 0xC0F .b1 = setEffect s key 0xF .b1 := rfl

/-! ### The assembler: examples of the spec -/

/-- 30_encoding.md R110 to R115. -/
theorem test_assemble :
    Asm.assembleBytes "LDR r4, [1947 + r9 * 8]" = some [0xB7, 0x93, 0x41, 0x07, 0x9B] ∧
    Asm.assembleBytes "STRq r2, [r6]" = some [0xD4, 0x03, 0x26] ∧
    Asm.assembleBytes "PUSHq 1947" = some [0x59, 0x03, 0x01, 0x07, 0x9B] ∧
    Asm.assembleBytes "JMP 1947" = some [0x69, 0x00, 0xF1, 0x07, 0x9B] := by decide

/-- 10_state.md R21, 30_encoding.md R113: the aliases. -/
theorem test_assemble_aliases :
    Asm.assemble "MOV eax, 15" = some (.ldrRegImm .r0 { size := .b1, value := 15 }) ∧
    Asm.assemble "JSR r5" = some (.callReg .r5) ∧ Asm.assemble "SYSCALL" = some .sys := by decide

/-! ### One step: the vectors of spec/95_test_vectors.md -/

/-- V1: ADD r4, 0x0F. -/
theorem test_add_imm :
    after ((at1000 [0x33, 0x00, 0x40, 0x0F]).setReg .r4 0x10)
      (fun t => t.reg .r4 = 0x1F ∧ t.pc = 0x1004) := by decide

/-- V3: ADD r3, r7. -/
theorem test_add_wraps :
    after (((at1000 [0x32, 0x00, 0x37]).setReg .r3 0xFFFFFFFFFFFFFFFF).setReg .r7 0x1)
      (fun t => t.reg .r3 = 0x0 ∧ t.pc = 0x1003) := by decide

/-- V5: ADDq r2, [r6]. -/
theorem test_add_ind :
    after ((((at1000 [0x34, 0x03, 0x26]).setReg .r2 0x1).setReg .r6 0x2000).put 0x2000 [0x00, 0x00, 0x00, 0x00,
        0x00, 0x00, 0x01, 0x00])
      (fun t => t.reg .r2 = 0x101 ∧ t.pc = 0x1003) := by decide

/-- V6: ADD r4, [r5 + r9 * 8]. -/
theorem test_add_ind_idx :
    after (((((at1000 [0x36, 0x93, 0x45]).setReg .r4 0x1).setReg .r5 0x2000).setReg .r9 0x2).put 0x2010 [0x00,
        0x00, 0x00, 0x00, 0x00, 0x00, 0x00, 0x2A])
      (fun t => t.reg .r4 = 0x2B ∧ t.pc = 0x1003) := by decide

/-- V8: ADDq r4, [0x079B]. -/
theorem test_add_dir :
    after (((at1000 [0x35, 0x03, 0x41, 0x07, 0x9B]).setReg .r4 0x2).put 0x79B [0x00, 0x00, 0x00, 0x00, 0x00, 0x00,
        0x00, 0x03])
      (fun t => t.reg .r4 = 0x5 ∧ t.pc = 0x1005) := by decide

/-- V9: ADD r4, [0x0800 + r9 * 2]. -/
theorem test_add_dir_idx :
    after ((((at1000 [0x37, 0x91, 0x41, 0x08, 0x00]).setReg .r4 0xA).setReg .r9 0x3).put 0x806 [0xFF, 0xFE])
      (fun t => t.reg .r4 = 0x8 ∧ t.pc = 0x1005) := by decide

/-- V11: SUB r3, r7. -/
theorem test_sub_wraps :
    after (((at1000 [0x42, 0x00, 0x37]).setReg .r3 0x0).setReg .r7 0x1)
      (fun t => t.reg .r3 = 0xFFFFFFFFFFFFFFFF ∧ t.pc = 0x1003) := by decide

/-- V12: AND r3, 0x0F. -/
theorem test_and_imm :
    after ((at1000 [0x03, 0x00, 0x30, 0x0F]).setReg .r3 0x1234)
      (fun t => t.reg .r3 = 0x4 ∧ t.pc = 0x1004) := by decide

/-- V14: OR r3, 0x80. -/
theorem test_or_imm_sign :
    after ((at1000 [0x13, 0x00, 0x30, 0x80]).setReg .r3 0x1)
      (fun t => t.reg .r3 = 0xFFFFFFFFFFFFFF81 ∧ t.pc = 0x1004) := by decide

/-- V16: XOR r3, r3. -/
theorem test_xor_same :
    after ((at1000 [0x22, 0x00, 0x33]).setReg .r3 0xDEADBEEF)
      (fun t => t.reg .r3 = 0x0 ∧ t.pc = 0x1003) := by decide

/-- V20: MUL r3, 0xFE. -/
theorem test_mul_sign :
    after ((at1000 [0x53, 0x00, 0x30, 0xFE]).setReg .r3 0x3)
      (fun t => t.reg .r3 = 0xFFFFFFFFFFFFFFFA ∧ t.pc = 0x1004) := by decide

/-- V22: DIV r3, r7. -/
theorem test_div_truncates :
    after (((at1000 [0x62, 0x00, 0x37]).setReg .r3 0xFFFFFFFFFFFFFFF9).setReg .r7 0x2)
      (fun t => t.reg .r3 = 0xFFFFFFFFFFFFFFFD ∧ t.pc = 0x1003) := by decide

/-- V24: DIV r3, r7. -/
theorem test_div_zero :
    after (((at1000 [0x62, 0x00, 0x37]).setReg .r3 0x5).setReg .r7 0x0)
      (fun t => t.status = .faulted (.divideError) ∧ t.pc = 0x1000) := by decide

/-- V27: NEG r4. -/
theorem test_neg :
    after ((at1000 [0x18, 0x00, 0x40]).setReg .r4 0x5)
      (fun t => t.reg .r4 = 0xFFFFFFFFFFFFFFFB ∧ t.pc = 0x1003) := by decide

/-- V30: NOT r4. -/
theorem test_not :
    after ((at1000 [0x08, 0x00, 0x40]).setReg .r4 0xF)
      (fun t => t.reg .r4 = 0xFFFFFFFFFFFFFFF0 ∧ t.pc = 0x1003) := by decide

/-- V31: CMP r3, r7. -/
theorem test_cmp_equal :
    after (((at1000 [0xC2, 0x00, 0x37]).setReg .r3 0x9).setReg .r7 0x9)
      (fun t => t.zf = true ∧ t.sf = false ∧ t.ovf = false ∧ t.pc = 0x1003) := by decide

/-- V32: CMP r3, 0x05. -/
theorem test_cmp_less :
    after ((at1000 [0xC3, 0x00, 0x30, 0x05]).setReg .r3 0x3)
      (fun t => t.zf = false ∧ t.sf = true ∧ t.ovf = false ∧ t.pc = 0x1004) := by decide

/-- V36: CMP r3, r7. -/
theorem test_cmp_overflow :
    after (((at1000 [0xC2, 0x00, 0x37]).setReg .r3 0x7FFFFFFFFFFFFFFF).setReg .r7 0xFFFFFFFFFFFFFFFF)
      (fun t => t.zf = false ∧ t.sf = true ∧ t.ovf = true ∧ t.pc = 0x1003) := by decide

/-- V37: CMPq r2, [r6]. -/
theorem test_cmp_mem :
    after (((((at1000 [0xC4, 0x03,
        0x26]).setReg .r2 0x100).setReg .r6 0x2000).setFlags true true true).put 0x2000 [0x00, 0x00, 0x00, 0x00,
        0x00, 0x00, 0x01, 0x00])
      (fun t => t.zf = true ∧ t.sf = false ∧ t.ovf = false ∧ t.pc = 0x1003) := by decide

/-- V39: LDR r3, 0xFF. -/
theorem test_ldr_sign :
    after (at1000 [0xB3, 0x00, 0x30, 0xFF])
      (fun t => t.reg .r3 = 0xFFFFFFFFFFFFFFFF ∧ t.pc = 0x1004) := by decide

/-- V40: LDU r3, 0xFF. -/
theorem test_ldu_zero :
    after (at1000 [0xA3, 0x00, 0x30, 0xFF])
      (fun t => t.reg .r3 = 0xFF ∧ t.pc = 0x1004) := by decide

/-- V43: LDR r4, 0x0123456789ABCDEF. -/
theorem test_ldr_imm8 :
    after (at1000 [0xB3, 0x00, 0x43, 0x01, 0x23, 0x45, 0x67, 0x89, 0xAB, 0xCD, 0xEF])
      (fun t => t.reg .r4 = 0x123456789ABCDEF ∧ t.pc = 0x100B) := by decide

/-- V44: LDR r5, r7. -/
theorem test_ldr_whole_reg :
    after ((at1000 [0xB2, 0x00, 0x57]).setReg .r7 0x8877665544332211)
      (fun t => t.reg .r5 = 0x8877665544332211 ∧ t.pc = 0x1003) := by decide

/-- V48: LDU r2, [r6]. -/
theorem test_ldu_ind :
    after (((at1000 [0xA4, 0x00, 0x26]).setReg .r6 0x2000).put 0x2000 [0x80])
      (fun t => t.reg .r2 = 0x80 ∧ t.pc = 0x1003) := by decide

/-- V49: LDR(2) r2, [r6]. -/
theorem test_ldr_ind_half :
    after (((at1000 [0xB4, 0x01, 0x26]).setReg .r6 0x2000).put 0x2000 [0x80, 0x01])
      (fun t => t.reg .r2 = 0xFFFFFFFFFFFF8001 ∧ t.pc = 0x1003) := by decide

/-- V52: LDR r4, [0x079B + r9 * 8]. -/
theorem test_ldr_dir_idx :
    after (((at1000 [0xB7, 0x93, 0x41, 0x07, 0x9B]).setReg .r9 0x1).put 0x7A3 [0x00, 0x00, 0x00, 0x00, 0x00, 0x00,
        0x00, 0x11])
      (fun t => t.reg .r4 = 0x11 ∧ t.pc = 0x1005) := by decide

/-- V53: LDR r9, [r5 + r9 * 8]. -/
theorem test_ldr_idx_is_dest :
    after ((((at1000 [0xB6, 0x93, 0x95]).setReg .r5 0x2000).setReg .r9 0x1).put 0x2008 [0x00, 0x00, 0x00, 0x00,
        0x00, 0x00, 0x00, 0x77])
      (fun t => t.reg .r9 = 0x77 ∧ t.pc = 0x1003) := by decide

/-- V55: LDRq r2, [r6]. -/
theorem test_ldr_wraps :
    after ((((at1000 [0xB4, 0x03, 0x26]).setReg .r6 0xFFFFFFFFFFFFFFFC).put 0x0 [0x05, 0x06, 0x07,
        0x08]).put 0xFFFFFFFFFFFFFFFC [0x01, 0x02, 0x03, 0x04])
      (fun t => t.reg .r2 = 0x102030405060708 ∧ t.pc = 0x1003) := by decide

/-- V58: LEA r2, [r6]. -/
theorem test_lea_ind :
    after ((at1000 [0xE4, 0x00, 0x26]).setReg .r6 0x2000)
      (fun t => t.reg .r2 = 0x2000 ∧ t.pc = 0x1003) := by decide

/-- V57: LEA r4, [0x079B]. -/
theorem test_lea_dir :
    after (at1000 [0xE5, 0x00, 0x41, 0x07, 0x9B])
      (fun t => t.reg .r4 = 0x79B ∧ t.pc = 0x1005) := by decide

/-- V60: LEA r4, [0xFFFE + r9 * 2]. -/
theorem test_lea_dir_idx :
    after ((at1000 [0xE7, 0x91, 0x41, 0xFF, 0xFE]).setReg .r9 0x3)
      (fun t => t.reg .r4 = 0x10004 ∧ t.pc = 0x1005) := by decide

/-- V61: LEA r4, [r5 + r9 * 1]. -/
theorem test_lea_ind_idx_wraps :
    after (((at1000 [0xE6, 0x90, 0x45]).setReg .r5 0xFFFFFFFFFFFFFFFF).setReg .r9 0x2)
      (fun t => t.reg .r4 = 0x1 ∧ t.pc = 0x1003) := by decide

/-- V64: STR(2) r2, [r6]. -/
theorem test_str_half :
    after (((at1000 [0xD4, 0x01, 0x26]).setReg .r2 0x123456789ABCDEF).setReg .r6 0x3000)
      (fun t => readBytes t 0x3000 2 = [0xCD, 0xEF] ∧ t.pc = 0x1003) := by decide

/-- V65: STRq r4, [0x079B]. -/
theorem test_str_dir :
    after ((at1000 [0xD5, 0x03, 0x41, 0x07, 0x9B]).setReg .r4 0xFFFFFFFFFFFFFFFE)
      (fun t => readBytes t 0x79B 8 = [0xFF, 0xFF, 0xFF, 0xFF, 0xFF, 0xFF, 0xFF, 0xFE] ∧ t.pc = 0x1005) := by decide

/-- V66: STR r4, [r5 + r9 * 8]. -/
theorem test_str_ind_idx :
    after ((((at1000 [0xD6, 0x93, 0x45]).setReg .r4 0x55).setReg .r5 0x3000).setReg .r9 0x2)
      (fun t => readBytes t 0x3010 8 = [0x00, 0x00, 0x00, 0x00, 0x00, 0x00, 0x00, 0x55] ∧ t.pc = 0x1003) := by decide

/-- V67: STR r4, [0x079B + r9 * 8]. -/
theorem test_str_dir_idx :
    after (((at1000 [0xD7, 0x93, 0x41, 0x07, 0x9B]).setReg .r4 0xAA).setReg .r9 0x1)
      (fun t => readBytes t 0x7A3 8 = [0x00, 0x00, 0x00, 0x00, 0x00, 0x00, 0x00, 0xAA] ∧ t.pc = 0x1005) := by decide

/-- V69: PUSH r4. -/
theorem test_push_byte :
    after ((at1000 [0x58, 0x00, 0x04]).setReg .r4 0x1234)
      (fun t => t.sp = 0x7FFF ∧ readBytes t 0x7FFF 1 = [0x34] ∧ t.pc = 0x1003) := by decide

/-- V74: PUSH 0x1234. -/
theorem test_push_imm_truncates :
    after (at1000 [0x59, 0x00, 0x01, 0x12, 0x34])
      (fun t => t.sp = 0x7FFF ∧ readBytes t 0x7FFF 1 = [0x34] ∧ t.pc = 0x1005) := by decide

/-- V76: PUSHq r4. -/
theorem test_push_wraps :
    after (((at1000 [0x58, 0x03, 0x04]).setReg .r4 0x1).setSp 0x4)
      (fun t => t.sp = 0xFFFFFFFFFFFFFFFC ∧ readBytes t 0xFFFFFFFFFFFFFFFC 8 = [0x00, 0x00, 0x00, 0x00, 0x00, 0x00,
        0x00, 0x01] ∧ t.pc = 0x1003) := by decide

/-- V77: POP r4. -/
theorem test_pop_sign :
    after (((at1000 [0x48, 0x00, 0x40]).setSp 0x7FFF).put 0x7FFF [0xFF])
      (fun t => t.reg .r4 = 0xFFFFFFFFFFFFFFFF ∧ t.sp = 0x8000 ∧ t.pc = 0x1003) := by decide

/-- V78: POPq r7. -/
theorem test_pop_word :
    after (((at1000 [0x48, 0x03, 0x70]).setSp 0x7FF8).put 0x7FF8 [0x01, 0x23, 0x45, 0x67, 0x89, 0xAB, 0xCD, 0xEF])
      (fun t => t.reg .r7 = 0x123456789ABCDEF ∧ t.sp = 0x8000 ∧ t.pc = 0x1003) := by decide

/-- V80: MARK r4. -/
theorem test_mark :
    after ((at1000 [0x38, 0x00, 0x40]).setReg .r4 0x1111)
      (fun t => t.reg .r4 = 0x7FF8 ∧ t.sp = 0x7FF8 ∧ readBytes t 0x7FF8 8 = [0x00, 0x00, 0x00, 0x00, 0x00, 0x00,
        0x11, 0x11] ∧ t.pc = 0x1003) := by decide

/-- V81: FREE r4. -/
theorem test_free :
    after ((((at1000 [0x28, 0x00, 0x40]).setReg .r4 0x7FF8).setSp 0x7F00).put 0x7FF8 [0x00, 0x00, 0x00, 0x00, 0x00,
        0x00, 0x11, 0x11])
      (fun t => t.reg .r4 = 0x1111 ∧ t.sp = 0x8000 ∧ t.pc = 0x1003) := by decide

/-- V83: CALL 0x079B. -/
theorem test_call_imm :
    after (at1000 [0x79, 0x00, 0x01, 0x07, 0x9B])
      (fun t => t.sp = 0x7FF8 ∧ readBytes t 0x7FF8 8 = [0x00, 0x00, 0x00, 0x00, 0x00, 0x00, 0x10, 0x05] ∧
        t.pc = 0x79B) := by decide

/-- V84: CALL r5. -/
theorem test_call_reg :
    after ((at1000 [0x78, 0x00, 0x05]).setReg .r5 0x4000)
      (fun t => t.sp = 0x7FF8 ∧ readBytes t 0x7FF8 8 = [0x00, 0x00, 0x00, 0x00, 0x00, 0x00, 0x10, 0x03] ∧
        t.pc = 0x4000) := by decide

/-- V86: RET. -/
theorem test_ret :
    after (((at1000 [0xF8, 0x00, 0x00]).setSp 0x7FF8).put 0x7FF8 [0x00, 0x00, 0x00, 0x00, 0x00, 0x00, 0x10, 0x05])
      (fun t => t.sp = 0x8000 ∧ t.pc = 0x1005) := by decide

/-- V88: JMP r7. -/
theorem test_jmp_reg :
    after ((at1000 [0x68, 0x00, 0xF7]).setReg .r7 0x123456789A)
      (fun t => t.pc = 0x123456789A) := by decide

/-- V90: JE 0x079B. -/
theorem test_je_not_taken :
    after ((at1000 [0x69, 0x00, 0x11, 0x07, 0x9B]).setFlags false false false)
      (fun t => t.pc = 0x1005) := by decide

/-- V91: JNE 0x079B. -/
theorem test_jne_taken :
    after ((at1000 [0x69, 0x00, 0x01, 0x07, 0x9B]).setFlags false true false)
      (fun t => t.pc = 0x79B) := by decide

/-- V94: JG 0x079B. -/
theorem test_jg_equal :
    after ((at1000 [0x69, 0x00, 0x21, 0x07, 0x9B]).setFlags true false false)
      (fun t => t.pc = 0x1005) := by decide

/-- V96: JGE 0x079B. -/
theorem test_jge_equal :
    after ((at1000 [0x69, 0x00, 0x31, 0x07, 0x9B]).setFlags true false false)
      (fun t => t.pc = 0x79B) := by decide

/-- V100: JL 0x079B. -/
theorem test_jl_both_flags :
    after ((at1000 [0x69, 0x00, 0x41, 0x07, 0x9B]).setFlags true true false)
      (fun t => t.pc = 0x1005) := by decide

/-- V101: JLE r7. -/
theorem test_jle_sf :
    after (((at1000 [0x68, 0x00, 0x57]).setReg .r7 0x2222).setFlags false true false)
      (fun t => t.pc = 0x2222) := by decide

/-- V102: JLE r7. -/
theorem test_jle_disputed :
    after (((at1000 [0x68, 0x00, 0x57]).setReg .r7 0x2222).setFlags true false false)
      (fun t => t.pc = 0x1003) := by decide

/-- V105: JNO 0x079B. -/
theorem test_jno_not_taken :
    after ((at1000 [0x69, 0x00, 0x61, 0x07, 0x9B]).setFlags false false true)
      (fun t => t.pc = 0x1005) := by decide

/-- V106: JO 0x079B. -/
theorem test_jo_taken :
    after ((at1000 [0x69, 0x00, 0x71, 0x07, 0x9B]).setFlags false false true)
      (fun t => t.pc = 0x79B) := by decide

/-- V111: NOP. -/
theorem test_nop_fields_ignored :
    after (at1000 [0xFF, 0x12, 0x34])
      (fun t => t.pc = 0x1003) := by decide

/-- V112: SYS. -/
theorem test_sys_from_application :
    after ((at1000 [0xF9, 0x00, 0x00]).inApplication)
      (fun t => t.sp = 0x7FF8 ∧ t.mode = .supervisor ∧ readBytes t 0x7FF8 8 = [0x00, 0x00, 0x00, 0x00, 0x00, 0x00,
        0x10, 0x03] ∧ t.pc = 0xC00) := by decide

/-- V114: RTI. -/
theorem test_rti :
    after (((at1000 [0xFA, 0x00, 0x00]).setSp 0x7FF8).put 0x7FF8 [0x00, 0x00, 0x00, 0x00, 0x00, 0x00, 0x10, 0x03])
      (fun t => t.sp = 0x8000 ∧ t.ai = true ∧ t.pc = 0x1003) := by decide

/-- V115: RTI. -/
theorem test_rti_privileged :
    after ((((at1000 [0xFA, 0x00, 0x00]).setSp 0x7FF8).inApplication).put 0x7FF8 [0x00, 0x00, 0x00, 0x00, 0x00,
        0x00, 0x10, 0x03])
      (fun t => t.status = .faulted (.privilegeViolation 0x1000) ∧ t.pc = 0x1000) := by decide

/-- V117: OUT r3, r7. -/
theorem test_out_byte :
    after (((at1000 [0xCA, 0x00, 0x37]).setReg .r3 0x20).setReg .r7 0x1234)
      (fun t => t.portTrace = [.write 0x20 1 0x34] ∧ t.pc = 0x1003) := by decide

/-- V118: OUTq r4, 0x079B. -/
theorem test_out_word :
    after ((at1000 [0xCB, 0x03, 0x41, 0x07, 0x9B]).setReg .r4 0x21)
      (fun t => t.portTrace = [.write 0x21 8 0x79B] ∧ t.pc = 0x1005) := by decide

/-- V120: IN r3, 0x0F. -/
theorem test_in_sign :
    after ((at1000 [0xBB, 0x00, 0x30, 0x0F]).input 0x80)
      (fun t => t.reg .r3 = 0xFFFFFFFFFFFFFF80 ∧
        (t.portTrace.map fun e => match e with | .read p n _ => (p, n) | .write p n _ => (p, n)) = [(0xF, 1)] ∧
        t.pc = 0x1004) := by decide

/-- V122: INq r4, 0x079B. -/
theorem test_in_word :
    after ((at1000 [0xBB, 0x03, 0x41, 0x07, 0x9B]).input 0x1122334455667788)
      (fun t => t.reg .r4 = 0x1122334455667788 ∧
        (t.portTrace.map fun e => match e with | .read p n _ => (p, n) | .write p n _ => (p, n)) = [(0x79B, 8)] ∧
        t.pc = 0x1005) := by decide

/-- V123: IN r3, r7. -/
theorem test_in_privileged :
    after ((((at1000 [0xBA, 0x00, 0x37]).setReg .r7 0x3F8).inApplication).input 0x41)
      (fun t => t.status = .faulted (.privilegeViolation 0x1000) ∧ t.pc = 0x1000) := by decide

/-- V125: SET r3, r7. -/
theorem test_set :
    after (((at1000 [0xDA, 0x00, 0x37]).setReg .r3 0x100).setReg .r7 0xC00)
      (fun t => t.pc = 0x1003) := by decide

/-- V109: (illegal: Jcc condition E). -/
theorem test_jcc_reserved_condition :
    after (((at1000 [0x68, 0x00, 0xE7]).setReg .r7 0x0).setFlags false false false)
      (fun t => t.status = .faulted (.illegalInstruction 0x1000 0x68 0x00 0xE7) ∧ t.pc = 0x1000) := by decide

/-- V133: (illegal). -/
theorem test_set_invalid_mode :
    after ((at1000 [0xD9, 0x00, 0x30, 0x0F]).setReg .r3 0x100)
      (fun t => t.status = .faulted (.illegalInstruction 0x1000 0xD9 0x00 0x30) ∧ t.pc = 0x1000) := by decide

/-- V139: (illegal: ADD with Size code 4). -/
theorem test_add_size_too_wide :
    after ((at1000 [0x35, 0x04, 0x41, 0x07, 0x9B]).setReg .r4 0x0)
      (fun t => t.status = .faulted (.illegalInstruction 0x1000 0x35 0x04 0x41) ∧ t.pc = 0x1000) := by decide

/-- V142: (illegal: ADD with immediate code F). -/
theorem test_add_imm_too_wide :
    after ((at1000 [0x33, 0x90, 0x4F, 0x00, 0x00, 0x00]).setReg .r4 0x0)
      (fun t => t.status = .faulted (.illegalInstruction 0x1000 0x33 0x90 0x4F) ∧ t.pc = 0x1000) := by decide

/-! ### Witnesses: for each statement with hypotheses, states and operands that meet them together -/

/-- A memory operand of each kind, the two immediate ones with the largest two-byte address. -/
def someOperands : List MemOperand :=
  [.ind .r6, .dir { size := .b2, value := 0xFFFF }, .indIdx .r9 .r6, .dirIdx .r9 { size := .b2, value := 0xFFFF }]

/-- r6 four bytes below the end of memory, so that a word at `[r6]` wraps; r9 = 1; one byte that may not be written. -/
def wrapping : State := (((at1000 [0xFF, 0x00, 0x00]).setReg .r6 0xFFFFFFFFFFFFFFFC).setReg .r9 1).hole .write 0x4000

theorem witness_StepKeepsInvariant : ∃ t, wrapping.wf = true ∧ step wrapping = .next t := ⟨_, by decide, rfl⟩

theorem witness_DecodeEncode :
    (Instr.addRegImm .r15 { size := .b1, value := 0xFF }).wf = true ∧
    (Instr.pushImm .b8 { size := .b8, value := 0xFFFFFFFFFFFFFFFF }).wf = true ∧ Instr.rti.wf = true := by decide

theorem witness_StrictDecodeOnlyEncodings :
    decode true [0x33, 0x00, 0x40, 0x0F, 0x55] = .ok (.addRegImm .r4 { size := .b1, value := 15 }, [0x55]) ∧
    decode true [0xFF, 0x00, 0x00] = .ok (.nop, []) := by decide

theorem witness_DecodeLength :
    decode false [0xB3, 0xFF, 0x43, 0x01, 0x23, 0x45, 0x67, 0x89, 0xAB, 0xCD, 0xEF, 0x99] =
      .ok (.ldrRegImm .r4 { size := .b8, value := 0x0123456789ABCDEF }, [0x99]) ∧
    decode false [0xF8, 0x00, 0x00] = .ok (.ret, []) := by decide

/-- 30_encoding.md R86, R89, R105: the last legal and the first illegal code of each kind. -/
theorem test_illegal_bases :
    ([(0x33, 0x00, 0x43), (0x33, 0x00, 0x44), (0x34, 0x03, 0x26), (0x34, 0x04, 0x26), (0x68, 0x00, 0x77),
        (0x68, 0x00, 0x87), (0x69, 0x00, 0xE0), (0x69, 0x00, 0xF0), (0xE4, 0x07, 0x26), (0xFB, 0x00, 0x00)].map
      fun b : Byte × Byte × Byte => match decodeBase false b.1 b.2.1 b.2.2 with
        | .ok _ => true
        | .error _ => false) = [true, false, true, false, true, false, false, true, true, false] := by decide

theorem witness_PrivilegeKnownFromFirstByte :
    decode false [0xFA, 0x00, 0x00] = .ok (.rti, []) ∧ decode false [0xBA, 0x00, 0x37] = .ok (.inRegReg .b1 .r3 .r7, []) ∧
    decode false [0xF9, 0x00, 0x00] = .ok (.sys, []) := by decide

theorem witness_OperandValues :
    (someOperands.all fun m => admits wrapping .read (ea wrapping .b8 m) Size.b8.bytes) = true ∧
    admits (wrapping.hole .read 3) .read (ea wrapping .b8 (.ind .r6)) Size.b8.bytes = false := by decide

/-- For ArithmeticResults, LogicResults, CompareFlags, LoadResults: every kind of Source, the memory ones wrapping. -/
theorem witness_sources :
    ((([.reg .r0, .imm { size := .b8, value := 0xFFFFFFFFFFFFFFFF }] : List Source) ++ someOperands.map (Source.mem .b8)).all
      (sourceAdmitted wrapping)) = true := by decide

/-- The least signed word, to be divided by itself or by -1. -/
def extreme (signed : Bool) : State :=
  let s := ((at1000 [0x62, 0x00, 0x37]).setReg .r3 0x8000000000000000).setReg .r7 0xFFFFFFFFFFFFFFFF
  { s with cfg := { s.cfg with divSigned := signed } }

theorem witness_DivisionResults :
    let bound (s : State) (b : Reg) : Prop :=
      sourceAdmitted s (.reg b) = true ∧ sourceValue s .sign (.reg b) ≠ 0 ∧
      ¬(s.cfg.divSigned = true ∧ (s.reg .r3).toInt = -2 ^ 63 ∧ (sourceValue s .sign (.reg b)).toInt = -1)
    bound (extreme true) .r3 ∧ bound (extreme false) .r7 := by decide

theorem witness_DivisionFaults :
    sourceAdmitted (extreme true) (.reg .r0) = true ∧ sourceValue (extreme true) .sign (.reg .r0) = 0 ∧
    (extreme true).cfg.divSigned = true ∧ ((extreme true).reg .r3).toInt = -2 ^ 63 ∧
    (sourceValue (extreme true) .sign (.reg .r7)).toInt = -1 := by decide

/-- For StoreResults, StoreThenLoad and StoreThenFetch. -/
theorem witness_stores :
    (someOperands.all fun m => admits wrapping .write (ea wrapping .b8 m) Size.b8.bytes &&
      admits wrapping .read (ea wrapping .b8 m) Size.b8.bytes &&
      admits wrapping .fetch (byteAddr (ea wrapping .b8 m) 7) 1) = true := by decide

/-- SP four bytes above the beginning of memory, so that pushing a word wraps. -/
def lowStack : State := (at1000 [0xF8, 0x00, 0x00]).setSp 4

/-- For PushResults, PushThenPop, MarkResults, CallResults, SystemCall: the place of the item wraps. -/
theorem witness_pushes :
    (([.b1, .b2, .b4, .b8] : List Size).all fun sz => admits lowStack .write (pushAddr lowStack sz) sz.bytes &&
      admits lowStack .read (pushAddr lowStack sz) sz.bytes) = true ∧
    admits lowStack .write (lowStack.sp - 8) 8 = true := by decide

/-- For PopResults, ReturnResults, FreeResults and ReturnFromInterrupt. -/
theorem witness_pops :
    admits (lowStack.setSp 0xFFFFFFFFFFFFFFFC) .read (lowStack.setSp 0xFFFFFFFFFFFFFFFC).sp 8 = true ∧
    admits (lowStack.setReg .r4 0xFFFFFFFFFFFFFFFC) .read ((lowStack.setReg .r4 0xFFFFFFFFFFFFFFFC).reg .r4) 8 = true ∧
    lowStack.mode = .supervisor := by decide

theorem witness_FreeUndoesMark :
    ∃ t, admits lowStack .write (lowStack.sp - 8) 8 = true ∧ exec (.markReg .r4) lowStack = .next t ∧
      (∀ i, i < 8 → readByte t (byteAddr (t.reg .r4) i) = readByte t (byteAddr (t.reg .r4) i)) ∧ t.cfg = lowStack.cfg ∧
      admits t .read (t.reg .r4) 8 = true := ⟨_, by decide, rfl, fun _ _ => rfl, rfl, by decide⟩

theorem witness_ReturnAfterCall :
    ∃ t, admits lowStack .write (lowStack.sp - 8) 8 = true ∧ exec (callInstr (.reg .r5)) lowStack = .next t ∧
      (∀ i, i < 8 → readByte t (byteAddr t.sp i) = readByte t (byteAddr t.sp i)) ∧ t.cfg = lowStack.cfg ∧
      admits t .read t.sp 8 = true := ⟨_, by decide, rfl, fun _ _ => rfl, rfl, by decide⟩

/-- For JumpNotEqual, JumpEqual, JumpGreater, JumpLess and JumpOverflow: a compare whose difference fits, with the top
bit set, one whose difference is zero, and one whose difference does not fit. -/
theorem witness_compares :
    let s := extreme true
    (∃ t, sourceAdmitted s (.reg .r0) = true ∧ exec (cmpInstr .r3 (.reg .r0)) s = .next t ∧ t.ovf = false ∧ t.sf = true ∧
      FitsSigned ((s.reg .r3).toInt - (sourceValue s s.cfg.narrowExt (.reg .r0)).toInt)) ∧
    (∃ t, sourceAdmitted s (.reg .r3) = true ∧ exec (cmpInstr .r3 (.reg .r3)) s = .next t ∧ t.zf = true ∧
      t.ovf = false) ∧
    (∃ t, sourceAdmitted s (.imm { size := .b1, value := 1 }) = true ∧
      exec (cmpInstr .r3 (.imm { size := .b1, value := 1 })) s = .next t ∧ t.ovf = true ∧ t.sf = false ∧
      ¬FitsSigned ((s.reg .r3).toInt - (sourceValue s s.cfg.narrowExt (.imm { size := .b1, value := 1 })).toInt)) ∧
    (s.setPc 0x200).pc = 0x200 := by
  unfold FitsSigned
  exact ⟨⟨_, by decide, rfl, by decide, by decide, by decide⟩, ⟨_, rfl, rfl, by decide, by decide⟩,
    ⟨_, rfl, rfl, by decide, by decide, by decide⟩, rfl⟩

/-- Memory filled with FF, its fetch admitted, and its last byte refused. -/
theorem witness_NoOperation :
    let s := at1000 [0xFF, 0xFF, 0xFF]
    s.status = .running ∧ s.ai = false ∧ s.cfg.strictReserved = false ∧
    readBytes s s.pc 3 = [0xFF, 0xFF, 0xFF] ∧ admitsFetch s s.pc 3 = true ∧
    admitsFetch (s.hole .fetch 0x1002) (s.hole .fetch 0x1002).pc 3 = false := by decide

/-- For InputResults, OutputResults and SetResults: every kind of Source. -/
theorem witness_system_sources :
    wrapping.mode = .supervisor ∧
    ((([.reg .r0, .imm { size := .b1, value := 0xFF }] : List SizedSource) ++ someOperands.map SizedSource.mem).all fun src =>
      sourceAdmitted wrapping (src.withSize .b8)) = true := by decide

/-- For InputResults: an input is supplied. -/
theorem witness_InputResults :
    let s := wrapping.input 0x1FF
    s.mode = .supervisor ∧ sourceAdmitted s ((SizedSource.reg .r9).withSize .b1) = true ∧ s.portScript = [0x1FF] := by
  decide

theorem witness_PrivilegeViolations :
    (([.rti, inInstr .b1 .r3 (.reg .r7), outInstr .b1 .r3 (.mem (.ind .r6)), setInstr .b8 .r3 (.reg .r0)] : List Instr).all
      Instr.privileged) = true ∧ wrapping.inApplication.mode = .application := by decide

/-- For the mode that SYS, RTI and interrupt entry give: a rule with a case that holds, one before it that does not, and
one of which no case holds. -/
theorem witness_ModeBy :
    let s := rtiBySetting [(9, 2)]
    (∀ q ∈ ([{ key := 9, mask := 2, value := 2 }] : List SettingTest), settingValue s q.key &&& q.mask = q.value) ∧
    ¬(∀ q ∈ ([{ key := 9, mask := 1, value := 1 }] : List SettingTest), settingValue s q.key &&& q.mask = q.value) := by
  decide

/-- For InterruptAccepted, in both modes. -/
theorem witness_InterruptAccepted :
    (lowStack.request (some 7)).status = .running ∧ (lowStack.request (some 7)).ai = true ∧
    irqRequest (lowStack.request (some 7)) = some 7 ∧
    admits (lowStack.request (some 7)) .write ((lowStack.request (some 7)).sp - 8) 8 = true ∧
    (lowStack.inApplication.request (some 7)).mode = .application := by decide

/-- The push of the same interrupt refused, at the last byte of the word. -/
theorem witness_InterruptAccepted_refused :
    let s := (lowStack.request (some 7)).hole .write 3
    s.status = .running ∧ s.ai = true ∧ irqRequest s = some 7 ∧ admits s .write (s.sp - 8) 8 = false := by decide

theorem witness_InterruptIgnored : lowStack.ai = false := rfl

theorem witness_ReturnAfterInterrupt :
    ∃ t, (lowStack.request (some 7)).status = .running ∧ (lowStack.request (some 7)).ai = true ∧
      irqRequest (lowStack.request (some 7)) = some 7 ∧
      admits (lowStack.request (some 7)) .write ((lowStack.request (some 7)).sp - 8) 8 = true ∧
      step (lowStack.request (some 7)) = .next t ∧
      (∀ i, i < 8 → readByte t (byteAddr t.sp i) = readByte t (byteAddr t.sp i)) ∧
      t.cfg = (lowStack.request (some 7)).cfg ∧ t.mode = .supervisor ∧ admits t .read t.sp 8 = true :=
  ⟨_, rfl, rfl, rfl, by decide, rfl, fun _ _ => rfl, rfl, rfl, by decide⟩

/-- The two ways to accept no interrupt, with an instruction of the shortest and of the longest kind at pc. -/
theorem witness_StepRunsDecoded :
    let short := (at1000 [0xFF, 0x00, 0x00]).request none
    let long := at1000 [0xB3, 0x00, 0x43, 0x01, 0x23, 0x45, 0x67, 0x89, 0xAB, 0xCD, 0xEF]
    short.status = .running ∧ irqRequest short = none ∧ admitsFetch short short.pc 3 = true ∧
    decode short.cfg.strictReserved (readBytes short short.pc 3) = .ok (.nop, []) ∧
    long.status = .running ∧ long.ai = false ∧ long.irqScript = [] ∧ admitsFetch long long.pc 11 = true ∧
    decode long.cfg.strictReserved (readBytes long long.pc 11) =
      .ok (.ldrRegImm .r4 { size := .b8, value := 0x0123456789ABCDEF }, []) := by decide

/-- The four clauses: the last byte of the base refused; an unassigned base; a privileged one in application mode; and
the last byte of the immediate refused, the ones before it admitted. -/
theorem witness_FetchFaults :
    let s := (at1000 [0xBB, 0x03, 0x41, 0x07, 0x9B]).hole .fetch 0x1002
    let u := (at1000 [0x33, 0x00, 0x41, 0x07, 0x9B]).hole .fetch 0x1004
    s.status = .running ∧ s.ai = false ∧ (∀ j, j < 2 → admits s .fetch (byteAddr s.pc j) 1 = true) ∧
    admits s .fetch (byteAddr s.pc 2) 1 = false ∧
    admitsFetch u u.pc 3 = true ∧ decodeBase u.cfg.strictReserved 0x70 0x00 0x00 matches .error _ ∧
    decodeBase s.cfg.strictReserved 0xBB 0x03 0x41 matches .ok _ ∧ privilegedByte 0xBB = true ∧
    privilegedByte 0x33 = false ∧ admits u .fetch (byteAddr u.pc 3) 1 = true ∧
    admits u .fetch (byteAddr u.pc 4) 1 = false := by decide

theorem witness_DataFaults :
    let s := wrapping.hole .read 3
    let u := wrapping.hole .write 3
    let i := ldrInstr .r2 (.mem .b8 (.ind .r6))
    let j := strInstr .b8 .r2 (.ind .r6)
    Operation.loaded s i.operation = some (0xFFFFFFFFFFFFFFFC, .b8) ∧
    admits s .read 0xFFFFFFFFFFFFFFFC Size.b8.bytes = false ∧ ¬(i.privileged = true ∧ s.mode = .application) ∧
    Operation.stored u j.operation = some (0xFFFFFFFFFFFFFFFC, .b8) ∧
    admits u .write 0xFFFFFFFFFFFFFFFC Size.b8.bytes = false := by decide

theorem witness_PreciseFaults :
    lowStack.status = .running ∧ (lowStack.raise .divideError).status = .faulted .divideError := ⟨rfl, rfl⟩

theorem witness_NoMemoryFaultByDefault :
    ∃ t, lowStack.cfg.holes = [] ∧ lowStack.status = .running ∧ step lowStack = .next t := ⟨_, rfl, rfl, rfl⟩

/-- For RegisterFrame, MemoryFrame, FlagWriters, FallThrough and ControlWriters: an instruction that writes a register
only, one that stores, and one that faults. -/
theorem witness_frames :
    let s := wrapping.aluFlags .preserve
    (∃ t, s.status = .running ∧ s.cfg.aluFlags = .preserve ∧ exec (addInstr .r4 (.reg .r6)) s = .next t ∧
      t.status = .running ∧ Operation.transfers (addInstr .r4 (.reg .r6)).operation = false) ∧
    (∃ t, exec (strInstr .b8 .r2 (.ind .r6)) s = .next t ∧ t.status = .running ∧
      Operation.stored s (strInstr .b8 .r2 (.ind .r6)).operation = some (0xFFFFFFFFFFFFFFFC, .b8)) ∧
    exec (divInstr .r4 (.reg .r0)) s = .next (s.raise .divideError) :=
  ⟨⟨_, rfl, rfl, rfl, rfl, rfl⟩, ⟨_, rfl, rfl, rfl⟩, rfl⟩

/-- With and without an interrupt accepted. -/
theorem witness_ApplicationConfined :
    (∃ t, lowStack.inApplication.mode = .application ∧ step lowStack.inApplication = .next t) ∧
    ∃ t, (lowStack.inApplication.request (some 7)).mode = .application ∧
      step (lowStack.inApplication.request (some 7)) = .next t := ⟨⟨_, rfl, rfl⟩, ⟨_, rfl, rfl⟩⟩

end Sys2Proof.Tests
end

/-! ## Proofs of the family 00_scope: every step keeps the invariant of the model; widening and narrowing -/

namespace Sys2Proof.Machine

/-! ### Keeping the invariant: the canonical forms and the parameters -/

/-- From `s` to `t` the canonical forms are kept (logs 8, 9, 10) and the parameters do not change (log 2). -/
def KeepsInvariant (s t : State) : Prop := (s.wf = true → t.wf = true) ∧ t.cfg = s.cfg

namespace KeepsInvariant

/-- The invariant speaks of memory, the Vector Table, the settings and the parameters alone. -/
theorem of_stores_eq {s t : State} (hm : t.mem = s.mem) (hv : t.vt = s.vt) (hs : t.settings = s.settings)
    (hc : t.cfg = s.cfg) : KeepsInvariant s t :=
  ⟨fun h => (State.wf_congr hm hv hs).trans h, hc⟩

theorem refl (s : State) : KeepsInvariant s s := .of_stores_eq rfl rfl rfl rfl

theorem trans {s t u : State} (hst : KeepsInvariant s t) (htu : KeepsInvariant t u) : KeepsInvariant s u :=
  ⟨htu.1 ∘ hst.1, htu.2.trans hst.2⟩

/-! The updates of the core registers keep it, whatever came before them. -/

variable {s t : State}

theorem setReg (h : KeepsInvariant s t) (a : Reg) (v : Word) : KeepsInvariant s (t.setReg a v) :=
  h.trans (.of_stores_eq rfl rfl rfl rfl)

theorem setSp (h : KeepsInvariant s t) (v : Word) : KeepsInvariant s (t.setSp v) :=
  h.trans (.of_stores_eq rfl rfl rfl rfl)

theorem setPc (h : KeepsInvariant s t) (v : Word) : KeepsInvariant s (t.setPc v) :=
  h.trans (.of_stores_eq rfl rfl rfl rfl)

theorem setModePc (h : KeepsInvariant s t) (m : Mode) (v : Word) : KeepsInvariant s { t with mode := m, pc := v } :=
  h.trans (.of_stores_eq rfl rfl rfl rfl)

theorem setAi (h : KeepsInvariant s t) (b : Bool) : KeepsInvariant s { t with ai := b } :=
  h.trans (.of_stores_eq rfl rfl rfl rfl)

/-! So do the operations on memory, the flags, the ports and the settings. -/

theorem raise (s : State) (f : Fault) : KeepsInvariant s (s.raise f) := .of_stores_eq rfl rfl rfl rfl

theorem sampled (s : State) : KeepsInvariant s (Machine.sampled s) := .of_stores_eq rfl rfl rfl rfl

theorem aluFlags (s : State) (op : AluOp) (x y r : Word) : KeepsInvariant s (Machine.aluFlags s op x y r) :=
  .of_stores_eq (State.mem_aluFlags ..) (State.vt_aluFlags ..) (State.settings_aluFlags ..) (State.cfg_aluFlags ..)

theorem compareFlags (s : State) (x y : Word) : KeepsInvariant s (Machine.compareFlags s x y) :=
  .of_stores_eq rfl rfl rfl rfl

theorem portReadState (s : State) (p : Word) (sz : Size) : KeepsInvariant s (Machine.portReadState s p sz) :=
  .of_stores_eq rfl rfl rfl rfl

theorem portWriteState (s : State) (p : Word) (sz : Size) (v : Word) :
    KeepsInvariant s (Machine.portWriteState s p sz v) :=
  .of_stores_eq rfl rfl rfl rfl

theorem storeValue (s : State) (x : Word) (sz : Size) (v : Word) : KeepsInvariant s (Machine.storeValue s x sz v) :=
  ⟨State.wf_storeValue x sz v, State.cfg_storeValue s x sz v⟩

theorem applySettings (s : State) (cs : List SettingWrite) : KeepsInvariant s (Machine.applySettings s cs) :=
  ⟨State.wf_applySettings cs, State.cfg_applySettings s cs⟩

/-- The write of a push: the item stored below SP, and SP moved to it (43_stack.md R190). -/
theorem pushed (s : State) (sz : Size) (v : Word) :
    KeepsInvariant s ((Machine.storeValue s (pushAddr s sz) sz v).setSp (pushAddr s sz)) :=
  (storeValue s _ sz v).setSp _

end KeepsInvariant

/-! ### Instructions, traps and steps keep the invariant -/

/-- Memory changes only by a store or a push, the tables only by SET; every other effect leaves all of them alone. -/
theorem Operation.Effect.keepsInvariant {s t : State} {o : Operation} (h : Operation.Effect s t o) :
    KeepsInvariant s t := by
  cases o with
  | binary op a src => obtain ⟨x, y, r, rfl⟩ := h; exact ((KeepsInvariant.aluFlags s op x y r).setReg a r).setPc _
  | unary op a => obtain ⟨x, y, r, rfl⟩ := h; exact ((KeepsInvariant.aluFlags s op x y r).setReg a r).setPc _
  | compare a src => obtain ⟨x, y, rfl⟩ := h; exact (KeepsInvariant.compareFlags s x y).setPc _
  | load k a src => obtain ⟨v, rfl⟩ := h; exact ((KeepsInvariant.refl s).setReg a v).setPc _
  | address a sz m => cases h; exact ((KeepsInvariant.refl s).setReg a _).setPc _
  | store a sz m => cases h; exact (KeepsInvariant.storeValue s _ sz _).setPc _
  | push sz src => cases h; exact (KeepsInvariant.pushed s sz _).setPc _
  | pop sz a => obtain ⟨v, p, rfl⟩ := h; exact (((KeepsInvariant.refl s).setSp p).setReg a v).setPc _
  | mark a => obtain ⟨v, w, rfl⟩ := h; exact ((KeepsInvariant.pushed s systemWord v).setReg a w).setPc _
  | free a => obtain ⟨v, p, rfl⟩ := h; exact (((KeepsInvariant.refl s).setSp p).setReg a v).setPc _
  | call tg => obtain ⟨v, rfl⟩ := h; exact (KeepsInvariant.pushed s systemWord v).setPc _
  | jump c tg => obtain ⟨p, rfl⟩ := h; exact (KeepsInvariant.refl s).setPc p
  | ret => obtain ⟨p, q, rfl⟩ := h; exact ((KeepsInvariant.refl s).setSp p).setPc q
  | nop => cases h; exact (KeepsInvariant.refl s).setPc _
  | portIn a sz src =>
    obtain ⟨-, p, v, rfl⟩ := h; exact ((KeepsInvariant.portReadState s p sz).setReg a v).setPc _
  | portOut a sz src => obtain ⟨-, p, v, rfl⟩ := h; exact (KeepsInvariant.portWriteState s p sz v).setPc _
  | setting a sz src => obtain ⟨-, cs, rfl⟩ := h; exact (KeepsInvariant.applySettings s cs).setPc _
  | sys => obtain ⟨v, m, k, rfl⟩ := h; exact (KeepsInvariant.pushed s systemWord v).setModePc m k
  | rti => obtain ⟨-, p, m, q, rfl⟩ := h; exact (((KeepsInvariant.refl s).setSp p).setAi true).setModePc m q

/-- Executing an instruction, whether it completes or faults. -/
theorem exec_keepsInvariant {i : Instr} {s t : State} (h : exec i s = .next t) : KeepsInvariant s t := by
  obtain ⟨f, rfl⟩ | effect := exec_effect h
  · exact .raise s f
  · exact effect.keepsInvariant

/-- Running the instruction at pc, also where fetching or decoding it faults. -/
theorem runInstr_keepsInvariant {s t : State} (h : runInstr s = .next t) : KeepsInvariant s t := by
  obtain ⟨i, -, hrun⟩ | ⟨f, -, hrun⟩ := runInstr_cases s
  · exact exec_keepsInvariant (hrun.symm.trans h)
  · cases hrun.symm.trans h
    exact .raise s f

/-- A trap taken: the push of the address at which to resume, then mode and pc. -/
theorem trapEntry_keepsInvariant {resume : Word} {k : Nat} {s t : State} (h : trapEntry resume k s = .ok t) :
    KeepsInvariant s t := by
  rw [trapEntry_eq] at h
  split at h
  · cases h; exact (KeepsInvariant.pushed s systemWord resume).setModePc _ _
  · cases h

/-- Interrupt entry, also where its push is refused (60_exceptions.md R272). -/
theorem interruptEntry_keepsInvariant {k : Nat} {s t : State} (h : interruptEntry k s = .next t) :
    KeepsInvariant s t := by
  unfold interruptEntry at h
  cases htrap : trapEntry s.pc k s with
  | ok u =>
    simp only [htrap, conclude_ok] at h
    cases h
    exact (trapEntry_keepsInvariant htrap).setAi false
  | error f =>
    simp only [htrap, conclude_error] at h
    cases h
    exact .raise s f

/-- Only a running machine answers a next state (60_exceptions.md R262). -/
theorem status_running_of_step {s t : State} (h : step s = .next t) : s.status = .running := by
  cases hs : s.status with
  | running => rfl
  | faulted f => simp only [step, hs, reduceCtorEq] at h

/-- Every step, from any state. -/
theorem step_keepsInvariant {s t : State} (h : step s = .next t) : KeepsInvariant s t := by
  refine (KeepsInvariant.sampled s).trans ?_
  obtain ⟨k, -, -, hstep⟩ | ⟨hstep, -⟩ := step_cases (status_running_of_step h)
  · exact interruptEntry_keepsInvariant (hstep.symm.trans h)
  · exact runInstr_keepsInvariant (hstep.symm.trans h)

/-- Settles O3: every part of a step keeps the canonical forms and the parameters. -/
theorem stepKeepsInvariant : Obligations.StepKeepsInvariant := fun _ _ hwf hstep =>
  have ⟨keepsForms, sameCfg⟩ := step_keepsInvariant hstep
  ⟨keepsForms hwf, sameCfg⟩

/-! ### Widening and narrowing -/

/-- No size is wider than a word. -/
theorem size_bits_le_word (sz : Size) : 8 * sz.bytes ≤ 64 := by
  cases sz <;> decide

/-- The low bits of a word read as signed: its signed value, wrapped to that many bits. -/
theorem toInt_setWidth_of_le {n : Nat} (hn : n ≤ 64) (v : Word) :
    (v.setWidth n).toInt = v.toInt.bmod (2 ^ n) := by
  have hdvd : 2 ^ n ∣ 2 ^ 64 := Nat.pow_dvd_pow 2 hn
  rw [BitVec.toInt_setWidth, BitVec.toInt_eq_toNat_bmod, Int.bmod_bmod_of_dvd hdvd]

/-- Sign widening keeps the signed value of the low bits (40_operands.md R127). -/
theorem toInt_widen_sign (sz : Size) (v : Word) : (widen .sign sz v).toInt = v.toInt.bmod (2 ^ (8 * sz.bytes)) := by
  rw [widen, BitVec.toInt_signExtend_of_le (size_bits_le_word sz), toInt_setWidth_of_le (size_bits_le_word sz)]

/-- Settles O11: truncation is zero widening by definition, so the value of zero widening is that of truncation. -/
theorem wideningValues : Obligations.WideningValues := fun sz v =>
  ⟨truncate_toNat sz v, toInt_widen_sign sz v, rfl⟩

end Sys2Proof.Machine

/-! ## Proofs of the family 10_state: reset, the register numbers, CMP, and what an instruction leaves unchanged -/

namespace Sys2Proof.Machine

/-! ### Reset and the register numbers -/

/-- Settles O1: each value is a field of `State.boot`. -/
theorem resetValues : Obligations.ResetValues :=
  ⟨rfl, fun _ => ⟨rfl, rfl, rfl, rfl, rfl, rfl⟩⟩

/-- Settles O2: reset leaves memory, the Vector Table and the settings empty, and empty stores are canonical. -/
theorem resetWellFormed : Obligations.ResetWellFormed := fun _ => (State.wf_iff _).mpr ⟨rfl, rfl, rfl⟩

/-- Settles O4: the sixteen names are computed, and naming and numbering a register undo each other. -/
theorem registerNumbers : Obligations.RegisterNumbers :=
  ⟨by decide, Reg.toNibble_ofNibble, Reg.ofNibble_toNibble⟩

/-! ### CMP: the flags of a difference (10_state.md R29, 41_arith_logic.md R145) -/

/-- A word's top bit is its sign. -/
theorem msb_iff_toInt_neg (x : Word) : x.msb = true ↔ x.toInt < 0 := by
  rw [BitVec.msb_eq_toInt, decide_eq_true_eq]

/-- The sign rule for OF of a difference is the library's test for signed overflow. -/
theorem subOverflow_eq_ssubOverflow (x y : Word) : subOverflow x y (x - y) = BitVec.ssubOverflow x y := by
  rw [BitVec.ssubOverflow_eq, subOverflow]
  cases x.msb <;> cases y.msb <;> cases (x - y).msb <;> rfl

/-- OF of a difference is set exactly when the exact signed difference does not fit. -/
theorem subOverflow_iff_not_fitsSigned (x y : Word) :
    subOverflow x y (x - y) = true ↔ ¬FitsSigned (x.toInt - y.toInt) := by
  rw [subOverflow_eq_ssubOverflow]
  simp only [BitVec.ssubOverflow, FitsSigned, Bool.or_eq_true, decide_eq_true_eq]
  omega

theorem zf_compareFlags_iff (s : State) (x y : Word) : (compareFlags s x y).zf = true ↔ x = y :=
  beq_iff_eq.trans sub_eq_zero

theorem sf_compareFlags_iff (s : State) (x y : Word) : (compareFlags s x y).sf = true ↔ (x - y).toInt < 0 :=
  msb_iff_toInt_neg (x - y)

theorem ovf_compareFlags_iff (s : State) (x y : Word) :
    (compareFlags s x y).ovf = true ↔ ¬FitsSigned (x.toInt - y.toInt) :=
  subOverflow_iff_not_fitsSigned x y

/-- CMP of an admitted Source operand writes the flags of the difference and goes on. -/
theorem exec_cmpInstr_of_admitted {s : State} {src : Source} (a : Reg) (h : sourceAdmitted s src = true) :
    exec (cmpInstr a src) s =
      .next ((compareFlags s (s.reg a) (sourceValue s s.cfg.narrowExt src)).setPc (nextPc s (Source.ilen src))) := by
  rw [exec_eq_run, operation_cmpInstr]
  simp only [Operation.run, compareOperands, srcVal_of_admitted _ h, conclude_ok]

/-- Settles O19: the three flags by the lemmas above; the updates of CMP write nothing but the flags and pc. -/
theorem cmpInstr_compareFlags : Obligations.CompareFlags := fun s a src hadmitted =>
  let x := s.reg a
  let y := sourceValue s s.cfg.narrowExt src
  ⟨_, exec_cmpInstr_of_admitted a hadmitted,
    zf_compareFlags_iff s x y, sf_compareFlags_iff s x y, ovf_compareFlags_iff s x y,
    fun _ => rfl, rfl, sameMemory_of_mem rfl, sameSystem_refl s, rfl, rfl⟩

/-! ### General registers and SP (10_state.md R27, 40_operands.md R130) -/

/-- A register other than the destination is another register. -/
theorem ne_of_destination {o : Operation} {a r : Reg} (hr : o.destination ≠ some r) (ha : o.destination = some a) :
    a ≠ r :=
  fun e => hr (ha.trans (congrArg some e))

/-- An effect changes no general register but the destination of its operation. -/
theorem Operation.Effect.reg_eq {s t : State} {o : Operation} (h : Operation.Effect s t o) {r : Reg}
    (hr : o.destination ≠ some r) : t.reg r = s.reg r := by
  cases o with
  | binary op a src | unary op a => obtain ⟨x, y, v, rfl⟩ := h; simp [ne_of_destination hr rfl]
  | load k a src => obtain ⟨v, rfl⟩ := h; simp [ne_of_destination hr rfl]
  | address a sz m => cases h; simp [ne_of_destination hr rfl]
  | pop sz a | mark a | free a => obtain ⟨v, p, rfl⟩ := h; simp [ne_of_destination hr rfl]
  | portIn a sz src => obtain ⟨-, p, v, rfl⟩ := h; simp [ne_of_destination hr rfl]
  | compare a src => obtain ⟨x, y, rfl⟩ := h; simp
  | store a sz m | push sz src | nop => cases h; simp
  | call tg => obtain ⟨v, rfl⟩ := h; simp
  | jump c tg => obtain ⟨p, rfl⟩ := h; simp
  | ret => obtain ⟨p, q, rfl⟩ := h; simp
  | portOut a sz src => obtain ⟨-, p, v, rfl⟩ := h; simp
  | setting a sz src => obtain ⟨-, cs, rfl⟩ := h; simp
  | sys => obtain ⟨v, m, k, rfl⟩ := h; simp [State.reg]
  | rti => obtain ⟨-, p, m, q, rfl⟩ := h; simp [State.reg]

/-- An effect changes SP only where its operation is one that uses SP. -/
theorem Operation.Effect.sp_eq {s t : State} {o : Operation} (h : Operation.Effect s t o)
    (hsp : o.writesSp = false) : t.sp = s.sp := by
  cases o with
  | binary op a src | unary op a => obtain ⟨x, y, v, rfl⟩ := h; simp
  | compare a src => obtain ⟨x, y, rfl⟩ := h; simp
  | load k a src => obtain ⟨v, rfl⟩ := h; simp
  | address a sz m | store a sz m | nop => cases h; simp
  | jump c tg => obtain ⟨p, rfl⟩ := h; simp
  | portIn a sz src | portOut a sz src => obtain ⟨-, p, v, rfl⟩ := h; simp
  | push sz src | pop sz a | mark a | free a | call tg | ret | setting a sz src | sys | rti => cases hsp

/-- Settles O55: a fault changes no register, and an effect only those its operation writes. -/
theorem registerFrame : Obligations.RegisterFrame := by
  intro i s t h
  obtain ⟨f, rfl⟩ | effect := exec_effect h
  · exact ⟨fun _ _ => rfl, fun _ => rfl⟩
  · exact ⟨fun _ hr => effect.reg_eq hr, effect.sp_eq⟩

/-! ### The flags (10_state.md R31) -/

/-- Under ALU_FLAGS = preserve the flag update of an ALU instruction is no change (41_arith_logic.md R141). -/
theorem aluFlags_of_preserve {s : State} (h : s.cfg.aluFlags = .preserve) (op : AluOp) (x y r : Word) :
    aluFlags s op x y r = s := by
  simp only [aluFlags, h]

/-- An effect changes the flags only where its operation is one that writes them. -/
theorem Operation.Effect.sameFlags {s t : State} {o : Operation} (h : Operation.Effect s t o)
    (hflags : o.writesFlags = false) : SameFlags s t := by
  cases o with
  | binary op a src | unary op a | compare a src | setting a sz src => cases hflags
  | load k a src => obtain ⟨v, rfl⟩ := h; simp [SameFlags]
  | address a sz m | store a sz m | push sz src | nop => cases h; simp [SameFlags]
  | pop sz a | mark a | free a => obtain ⟨v, p, rfl⟩ := h; simp [SameFlags]
  | call tg => obtain ⟨v, rfl⟩ := h; simp [SameFlags]
  | jump c tg => obtain ⟨p, rfl⟩ := h; simp [SameFlags]
  | ret => obtain ⟨p, q, rfl⟩ := h; simp [SameFlags]
  | portIn a sz src | portOut a sz src => obtain ⟨-, p, v, rfl⟩ := h; simp [SameFlags]
  | sys => obtain ⟨v, m, k, rfl⟩ := h; simp [SameFlags]
  | rti => obtain ⟨-, p, m, q, rfl⟩ := h; simp [SameFlags]

/-- Under ALU_FLAGS = preserve a result written to a register, with pc moved on, leaves the flags alone. -/
theorem sameFlags_aluFlags_of_preserve {s : State} (h : s.cfg.aluFlags = .preserve) (op : AluOp) (a : Reg)
    (x y r p : Word) : SameFlags s (((aluFlags s op x y r).setReg a r).setPc p) := by
  rw [aluFlags_of_preserve h]
  exact ⟨rfl, rfl, rfl⟩

/-- Settles O57: a fault changes no flag, an effect only where its operation writes the flags, and under
ALU_FLAGS = preserve the ALU operations do not. -/
theorem flagWriters : Obligations.FlagWriters := by
  intro i s t h
  obtain ⟨f, rfl⟩ | effect := exec_effect h
  · exact ⟨fun _ => ⟨rfl, rfl, rfl⟩, fun _ _ _ _ _ => ⟨rfl, rfl, rfl⟩, fun _ _ _ _ => ⟨rfl, rfl, rfl⟩⟩
  · refine ⟨effect.sameFlags, fun op a src hop hp => ?_, fun op a hop hp => ?_⟩
    · obtain ⟨x, y, r, rfl⟩ : Operation.Effect s t (.binary op a src) := hop ▸ effect
      exact sameFlags_aluFlags_of_preserve hp op a x y r _
    · obtain ⟨x, y, r, rfl⟩ : Operation.Effect s t (.unary op a) := hop ▸ effect
      exact sameFlags_aluFlags_of_preserve hp op a x y r _

/-! ### pc (10_state.md R24, 30_encoding.md R88) -/

/-- An effect that is no transfer of control leaves pc at the following instruction. -/
theorem Operation.Effect.pc_eq {s t : State} {o : Operation} (h : Operation.Effect s t o)
    (htransfer : o.transfers = false) : t.pc = nextPc s o.ilen := by
  cases o with
  | binary op a src | unary op a => obtain ⟨x, y, v, rfl⟩ := h; rfl
  | compare a src => obtain ⟨x, y, rfl⟩ := h; rfl
  | load k a src => obtain ⟨v, rfl⟩ := h; rfl
  | address a sz m | store a sz m | push sz src | nop => cases h; rfl
  | pop sz a | mark a | free a => obtain ⟨v, p, rfl⟩ := h; rfl
  | portIn a sz src | portOut a sz src => obtain ⟨-, p, v, rfl⟩ := h; rfl
  | setting a sz src => obtain ⟨-, cs, rfl⟩ := h; rfl
  | call tg | jump c tg | ret | sys | rti => cases htransfer

/-- Settles O58: a fault leaves no running machine, and any other effect goes on past the instruction's bytes. -/
theorem fallThrough : Obligations.FallThrough := by
  intro i s t _ h hrunning htransfer
  obtain ⟨f, rfl⟩ | effect := exec_effect h
  · cases hrunning
  · rw [effect.pc_eq htransfer, ← ilen_eq_operation, nextPc_eq]

/-! ### The control state (10_state.md R34 to R36, 60_exceptions.md R283) -/

theorem operation_eq_rti {i : Instr} (h : i.operation = .rti) : i = .rti := by
  cases i with
  | rti => rfl
  | _ => cases h

theorem operation_eq_sys {i : Instr} (h : i.operation = .sys) : i = .sys := by
  cases i with
  | sys => rfl
  | _ => cases h

/-- An effect other than SET leaves the tables alone; AI changes only by RTI, and the mode only by RTI and SYS. -/
theorem Operation.Effect.control_eq {s t : State} {o : Operation} (h : Operation.Effect s t o)
    (hset : ∀ a sz src, o ≠ .setting a sz src) :
    t.vt = s.vt ∧ t.settings = s.settings ∧ (o ≠ .rti → t.ai = s.ai) ∧
      (o ≠ .rti → o ≠ .sys → t.mode = s.mode) := by
  cases o with
  | binary op a src | unary op a => obtain ⟨x, y, v, rfl⟩ := h; simp
  | compare a src => obtain ⟨x, y, rfl⟩ := h; simp
  | load k a src => obtain ⟨v, rfl⟩ := h; simp
  | address a sz m | store a sz m | push sz src | nop => cases h; simp
  | pop sz a | mark a | free a => obtain ⟨v, p, rfl⟩ := h; simp
  | call tg => obtain ⟨v, rfl⟩ := h; simp
  | jump c tg => obtain ⟨p, rfl⟩ := h; simp
  | ret => obtain ⟨p, q, rfl⟩ := h; simp
  | portIn a sz src | portOut a sz src => obtain ⟨-, p, v, rfl⟩ := h; simp
  | setting a sz src => exact absurd rfl (hset a sz src)
  | sys => obtain ⟨v, m, k, rfl⟩ := h; simp
  | rti => obtain ⟨-, p, m, q, rfl⟩ := h; simp

/-- Settles O59: a fault changes nothing of the control state, and an effect only what its operation may. -/
theorem controlWriters : Obligations.ControlWriters := by
  intro i s t h hset
  obtain ⟨f, rfl⟩ | effect := exec_effect h
  · exact ⟨rfl, rfl, fun _ => rfl, fun _ _ => rfl⟩
  · obtain ⟨hvt, hsettings, hai, hmode⟩ := effect.control_eq hset
    exact ⟨hvt, hsettings, fun hrti => hai (mt operation_eq_rti hrti),
      fun hrti hsys => hmode (mt operation_eq_rti hrti) (mt operation_eq_sys hsys)⟩

end Sys2Proof.Machine

/-! ## Proofs of the family 20_memory: the bytes of a value, what MemMap refuses and the faults that follow, and the
memory an instruction leaves unchanged -/

namespace Sys2Proof.Machine

/-! ### The bytes of a value in the byte order of data (20_memory.md R53 to R56) -/

/-- Byte `i` of a stored item, as the byte order of data places it. -/
theorem getElem_dataOrder_wordToBytes (be : Bool) (sz : Size) (v : Word) (i : Nat)
    (hi : i < (dataOrder be (wordToBytes sz.bytes v)).length) :
    (dataOrder be (wordToBytes sz.bytes v))[i] = storedByte be sz v i := by
  have hlt : i < sz.bytes := by simpa using hi
  cases be with
  | true => simp [dataOrder, wordToBytes, storedByte]
  | false =>
    have hswap : sz.bytes - 1 - (sz.bytes - 1 - i) = i := by omega
    simp [dataOrder, wordToBytes, storedByte, hswap]

/-- Splitting a value read gives back the bytes it was made of. -/
theorem dataOrder_wordToBytes_loadValue (s : State) (a : Word) (sz : Size) :
    dataOrder s.cfg.dataBigEndian (wordToBytes sz.bytes (loadValue s a sz)) = readBytes s a sz.bytes := by
  rw [loadValue, wordToBytes_bytesToWord sz _ (by simp [readBytes]), dataOrder_dataOrder]

theorem loadValue_toNat_lt (s : State) (a : Word) (sz : Size) : (loadValue s a sz).toNat < 2 ^ (8 * sz.bytes) :=
  bytesToWord_toNat_lt sz _ (by simp [readBytes])

/-- Byte `i` of a value read is the byte of memory it came from. -/
theorem storedByte_loadValue (s : State) (a : Word) (sz : Size) {i : Nat} (hi : i < sz.bytes) :
    storedByte s.cfg.dataBigEndian sz (loadValue s a sz) i = readByte s (byteAddr a i) := by
  rw [← getElem_dataOrder_wordToBytes _ _ _ _ (by simpa using hi)]
  simp [dataOrder_wordToBytes_loadValue, readBytes]

/-- A byte inside the bytes stored is the byte of the value. -/
theorem readByte_storeValue_inside (s : State) (a : Word) (sz : Size) (v : Word) {i : Nat} (hi : i < sz.bytes) :
    readByte (storeValue s a sz v) (byteAddr a i) = storedByte s.cfg.dataBigEndian sz v i := by
  have hlen : (dataOrder s.cfg.dataBigEndian (wordToBytes sz.bytes v)).length = sz.bytes := by simp
  have hle := sz.bytes_le
  rw [storeValue, readByte_writeBytes_inside s a _ i (by omega) (by omega), getElem_dataOrder_wordToBytes]

theorem holdsAt_storeValue (s : State) (a : Word) (sz : Size) (v : Word) : HoldsAt (storeValue s a sz v) a sz v := by
  intro i hi
  rw [readByte_storeValue_inside s a sz v hi, State.cfg_storeValue]

theorem sameMemoryBut_storeValue (s : State) (a : Word) (sz : Size) (v : Word) :
    SameMemoryBut s (storeValue s a sz v) a sz.bytes :=
  readByte_storeValue_outside s a sz v

/-- Settles O13: a read is joined from its bytes, a write splits the value into them, and the two undo each other. -/
theorem memoryBytes : Obligations.MemoryBytes := fun s a sz v =>
  ⟨loadValue_toNat_lt s a sz, fun _ => storedByte_loadValue s a sz, holdsAt_storeValue s a sz v,
    sameMemoryBut_storeValue s a sz v, loadValue_storeValue s a sz v, storeValue_eq s a sz v⟩

/-! ### A store, then a fetch (20_memory.md R68) -/

/-- STR where MemMap admits the write (42_load_store.md R173). -/
theorem exec_strInstr_of_admitted {s : State} {sz : Size} {m : MemOperand} (a : Reg)
    (h : admits s .write (ea s sz m) sz.bytes = true) :
    exec (strInstr sz a m) s =
      .next ((storeValue s (ea s sz m) sz (s.reg a)).setPc (nextPc s (MemOperand.ilen m))) := by
  simp only [exec_eq_run, operation_strInstr, Operation.run, store, memWrite_eq, if_pos h, conclude_ok]

theorem fetchByte_of_admits {s : State} {x : Word} (h : admits s .fetch x 1 = true) :
    fetchByte s x = .ok (readByte s x) :=
  if_pos h

/-- Settles O24: a fetch reads the same memory as data, where the stored bytes now lie. -/
theorem storeThenFetch : Obligations.StoreThenFetch := by
  intro s sz a m i hwrite hi hfetch
  refine ⟨_, exec_strInstr_of_admitted a hwrite, (fetchByte_of_admits ?_).trans (congrArg _ ?_)⟩
  · exact (admits_congr (State.cfg_storeValue ..) ..).trans hfetch
  · rw [readByte_congr (State.mem_setPc _ _), readByte_storeValue_inside s _ sz _ hi]

/-! ### The memory an instruction leaves unchanged (20_memory.md R60) -/

/-- An effect of an operation that stores nothing leaves memory as it was. -/
theorem Operation.Effect.mem_eq {s t : State} {o : Operation} (h : Operation.Effect s t o)
    (hstored : o.stored s = none) : t.mem = s.mem := by
  cases o with
  | binary op a src | unary op a => obtain ⟨x, y, v, rfl⟩ := h; simp
  | compare a src => obtain ⟨x, y, rfl⟩ := h; simp
  | load k a src => obtain ⟨v, rfl⟩ := h; simp
  | address a sz m | nop => cases h; simp
  | pop sz a | free a => obtain ⟨v, p, rfl⟩ := h; simp
  | jump c tg => obtain ⟨p, rfl⟩ := h; simp
  | ret => obtain ⟨p, q, rfl⟩ := h; simp
  | portIn a sz src | portOut a sz src => obtain ⟨-, p, v, rfl⟩ := h; simp
  | setting a sz src => obtain ⟨-, cs, rfl⟩ := h; simp
  | rti => obtain ⟨-, p, m, q, rfl⟩ := h; simp
  | store a sz m | push sz src | mark a | call tg | sys => cases hstored

/-- An effect of an operation that stores leaves memory as the store of one item makes it. -/
theorem Operation.Effect.mem_eq_storeValue {s t : State} {o : Operation} (h : Operation.Effect s t o) {addr : Word}
    {sz : Size} (hstored : o.stored s = some (addr, sz)) : ∃ v, t.mem = (storeValue s addr sz v).mem := by
  cases o with
  | store a sz m | push sz src => cases hstored; cases h; exact ⟨_, rfl⟩
  | mark a => cases hstored; obtain ⟨v, w, rfl⟩ := h; exact ⟨v, rfl⟩
  | call tg => cases hstored; obtain ⟨v, rfl⟩ := h; exact ⟨v, rfl⟩
  | sys => cases hstored; obtain ⟨v, m, k, rfl⟩ := h; exact ⟨v, rfl⟩
  | _ => cases hstored

/-- Memory as the store of one item makes it reads as before outside the item. -/
theorem sameMemoryBut_of_mem {s t : State} {addr : Word} {sz : Size} {v : Word}
    (h : t.mem = (storeValue s addr sz v).mem) : SameMemoryBut s t addr sz.bytes := fun x hx =>
  (readByte_congr h x).trans (sameMemoryBut_storeValue s addr sz v x hx)

/-- Settles O56: a fault changes no byte, and an effect at most the one item its operation stores. -/
theorem memoryFrame : Obligations.MemoryFrame := by
  intro i s t h
  obtain ⟨f, rfl⟩ | effect := exec_effect h
  · exact ⟨fun _ _ => rfl, fun _ _ _ _ _ => rfl⟩
  · refine ⟨fun hnone => sameMemory_of_mem (effect.mem_eq hnone), fun addr sz hstored => ?_⟩
    obtain ⟨v, hmem⟩ := effect.mem_eq_storeValue hstored
    exact sameMemoryBut_of_mem hmem

/-! ### An access that MemMap refuses (60_exceptions.md R265) -/

theorem memWrite_of_refused {s : State} {a : Word} {sz : Size} (v : Word)
    (h : admits s .write a sz.bytes = false) : memWrite s a sz v = .error (.memoryFault a .write) :=
  if_neg (Bool.eq_false_iff.mp h)

theorem memRead_of_refused {s : State} {a : Word} {sz : Size} (h : admits s .read a sz.bytes = false) :
    memRead s a sz = .error (.memoryFault a .read) :=
  if_neg (Bool.eq_false_iff.mp h)

theorem push_of_refused {s : State} {sz : Size} (v : Word) (h : admits s .write (pushAddr s sz) sz.bytes = false) :
    push s v sz = .error (.memoryFault (pushAddr s sz) .write) := by
  rw [push, memWrite_of_refused v h]

theorem pop_of_refused {s : State} {sz : Size} (h : admits s .read s.sp sz.bytes = false) :
    pop s sz = .error (.memoryFault s.sp .read) := by
  rw [pop, memRead_of_refused h]

/-- The address and size a Source operand reads, where it reads (40_operands.md R123). -/
def Source.loaded (s : State) : Source → Option (Word × Size)
  | .reg _ => none
  | .imm _ => none
  | .mem sz m => some (ea s sz m, sz)

/-! The operations with a Source operand read what it reads. -/

@[simp] theorem Operation.loaded_binary (s : State) (op : AluOp) (a : Reg) (src : Source) :
    Operation.loaded s (.binary op a src) = Source.loaded s src := by cases src <;> rfl
@[simp] theorem Operation.loaded_compare (s : State) (a : Reg) (src : Source) :
    Operation.loaded s (.compare a src) = Source.loaded s src := by cases src <;> rfl
@[simp] theorem Operation.loaded_load (s : State) (k : Ext) (a : Reg) (src : Source) :
    Operation.loaded s (.load k a src) = Source.loaded s src := by cases src <;> rfl
@[simp] theorem Operation.loaded_portIn (s : State) (a : Reg) (sz : Size) (src : Source) :
    Operation.loaded s (.portIn a sz src) = Source.loaded s src := by cases src <;> rfl
@[simp] theorem Operation.loaded_portOut (s : State) (a : Reg) (sz : Size) (src : Source) :
    Operation.loaded s (.portOut a sz src) = Source.loaded s src := by cases src <;> rfl
@[simp] theorem Operation.loaded_setting (s : State) (a : Reg) (sz : Size) (src : Source) :
    Operation.loaded s (.setting a sz src) = Source.loaded s src := by cases src <;> rfl

/-- A Source operand whose read is refused is the MemoryFault of that read. -/
theorem srcVal_of_refused {s : State} {src : Source} {addr : Word} {sz : Size} (k : Ext)
    (hload : Source.loaded s src = some (addr, sz)) (h : admits s .read addr sz.bytes = false) :
    srcVal s k src = .error (.memoryFault addr .read) := by
  cases src with
  | reg b | imm imm => cases hload
  | mem sz m => cases hload; exact srcVal_of_not_admitted k h

/-- A privileged operation that may run in this mode runs in supervisor mode (45_system.md R240). -/
theorem supervisor_of_mayRun {s : State} {o : Operation} (hrun : ¬(o.privileged = true ∧ s.mode = .application))
    (hprivileged : o.privileged = true) : s.mode = .supervisor := by
  cases hmode : s.mode with
  | supervisor => rfl
  | application => exact absurd ⟨hprivileged, hmode⟩ hrun

/-- An operation that may run in this mode and whose data read is refused answers the MemoryFault of that read. -/
theorem run_of_load_refused {s : State} {o : Operation} {addr : Word} {sz : Size}
    (hload : o.loaded s = some (addr, sz)) (h : admits s .read addr sz.bytes = false)
    (hrun : ¬(o.privileged = true ∧ s.mode = .application)) :
    o.run s = .next (s.raise (.memoryFault addr .read)) := by
  cases o with
  | binary op a src =>
    rw [Operation.loaded_binary] at hload
    simp only [Operation.run, binaryAlu, srcVal_of_refused _ hload h, conclude_error]
  | compare a src =>
    rw [Operation.loaded_compare] at hload
    simp only [Operation.run, compareOperands, srcVal_of_refused _ hload h, conclude_error]
  | load k a src =>
    rw [Operation.loaded_load] at hload
    simp only [Operation.run, load, srcVal_of_refused _ hload h, conclude_error]
  | portIn a size src =>
    rw [Operation.loaded_portIn] at hload
    simp only [Operation.run, portIn, supervisorOnly_supervisor (supervisor_of_mayRun hrun rfl),
      srcVal_of_refused _ hload h, conclude_error]
  | portOut a size src =>
    rw [Operation.loaded_portOut] at hload
    simp only [Operation.run, portOut, supervisorOnly_supervisor (supervisor_of_mayRun hrun rfl),
      srcVal_of_refused _ hload h, conclude_error]
  | setting a size src =>
    rw [Operation.loaded_setting] at hload
    simp only [Operation.run, setSetting, supervisorOnly_supervisor (supervisor_of_mayRun hrun rfl),
      srcVal_of_refused _ hload h, conclude_error]
  | pop size a => cases hload; simp only [Operation.run, popRegister, pop_of_refused h, conclude_error]
  | free a => cases hload; simp only [Operation.run, freeFrame, memRead_of_refused h, conclude_error]
  | ret => cases hload; simp only [Operation.run, execRet, pop_of_refused h, conclude_error]
  | rti =>
    cases hload
    simp only [Operation.run, execRti, supervisorOnly_supervisor (supervisor_of_mayRun hrun rfl), trapReturn,
      pop_of_refused h, conclude_error]
  | unary | address | store | push | mark | call | jump | nop | sys => cases hload

/-- An operation whose store is refused answers the MemoryFault of that write. -/
theorem run_of_store_refused {s : State} {o : Operation} {addr : Word} {sz : Size}
    (hstored : o.stored s = some (addr, sz)) (h : admits s .write addr sz.bytes = false) :
    o.run s = .next (s.raise (.memoryFault addr .write)) := by
  cases o with
  | store a size m => cases hstored; simp only [Operation.run, store, memWrite_of_refused _ h, conclude_error]
  | push size src => cases hstored; simp only [Operation.run, pushOperand, push_of_refused _ h, conclude_error]
  | mark a => cases hstored; simp only [Operation.run, markFrame, push_of_refused _ h, conclude_error]
  | call target => cases hstored; simp only [Operation.run, call, push_of_refused _ h, conclude_error]
  | sys => cases hstored; simp only [Operation.run, execSys, trapEntry, push_of_refused _ h, conclude_error]
  | _ => cases hstored

/-- What MemMap admits, with a hole's addresses written as its bounds (20_memory.md R51, log 18). -/
theorem admits_iff_bounds (s : State) (kind : AccessKind) (addr : Word) (n : Nat) :
    admits s kind addr n = true ↔ ∀ h ∈ s.cfg.holes, h.kind = kind →
      (h.width = none → ∀ i, i < n →
        ¬(h.base ≤ (byteAddr addr i).toNat ∧ (byteAddr addr i).toNat < h.base + h.size)) ∧
      (h.width = some n → ¬(h.base ≤ addr.toNat ∧ addr.toNat < h.base + h.size)) := by
  simp only [admits_iff, holeCovers_eq_false]

/-- Settles O52: MemMap is the list of what it refuses, and a refused access is a fault of the operation that makes
it. -/
theorem dataFaults : Obligations.DataFaults := by
  refine ⟨admits_iff_bounds, fun i s addr sz => ⟨fun hload h hrun => ?_, fun hstored h => ?_⟩⟩
  · rw [privileged_eq_operation] at hrun
    exact (exec_eq_run i s).trans (run_of_load_refused hload h hrun)
  · exact (exec_eq_run i s).trans (run_of_store_refused hstored h)

/-! ### Fetching (20_memory.md R57, 60_exceptions.md R274) -/

/-- The first instruction byte that MemMap refuses is the fault of the fetch. -/
theorem fetchBytes_of_refused {s : State} {a : Word} {n i : Nat} (hi : i < n)
    (hbefore : ∀ j, j < i → admits s .fetch (byteAddr a j) 1 = true)
    (h : admits s .fetch (byteAddr a i) 1 = false) :
    fetchBytes s a n = .error (.memoryFault (byteAddr a i) .fetch) := by
  induction n generalizing a i with
  | zero => omega
  | succ n ih =>
    cases i with
    | zero =>
      rw [byteAddr_zero] at h ⊢
      simp only [fetchBytes, fetchByte, h, Bool.false_eq_true, if_false]
    | succ i =>
      have shift : ∀ j, byteAddr (a + 1) j = byteAddr a (j + 1) := fun j => by
        rw [Nat.add_comm]; exact byteAddr_add a 1 j
      have hfirst : admits s .fetch a 1 = true := by simpa using hbefore 0 (by omega)
      have hrest : fetchBytes s (a + 1) n = .error (.memoryFault (byteAddr a (i + 1)) .fetch) := by
        rw [← shift]
        refine ih (by omega) (fun j hj => ?_) ?_
        · rw [shift]; exact hbefore (j + 1) (by omega)
        · rw [shift]; exact h
      simp only [fetchBytes, fetchByte_of_admits hfirst, hrest]

theorem fetchInstr_of_refused {s : State} {i : Nat} (hi : i < 3)
    (hbefore : ∀ j, j < i → admits s .fetch (byteAddr s.pc j) 1 = true)
    (h : admits s .fetch (byteAddr s.pc i) 1 = false) :
    fetchInstr s = .error (.memoryFault (byteAddr s.pc i) .fetch) := by
  simp only [fetchInstr, fetchBytes_of_refused hi hbefore h]

section Decoded

variable {s : State} {b0 b1 b2 : Byte} {hd : Header}

theorem fetchDecoded_of_illegal {e : DecodeError} (h : decodeBase s.cfg.strictReserved b0 b1 b2 = .error e) :
    fetchDecoded s b0 b1 b2 = .error (.illegalInstruction s.pc b0 b1 b2) := by
  simp only [fetchDecoded, h]

theorem fetchDecoded_of_privileged (h : decodeBase s.cfg.strictReserved b0 b1 b2 = .ok hd)
    (hmode : s.mode = .application) (hprivileged : privilegedByte b0 = true) :
    fetchDecoded s b0 b1 b2 = .error (.privilegeViolation s.pc) := by
  simp [fetchDecoded, h, hmode, hprivileged]

/-- Past the privilege check the immediate is fetched (60_exceptions.md R274). -/
theorem fetchDecoded_of_refused (h : decodeBase s.cfg.strictReserved b0 b1 b2 = .ok hd)
    (hrun : ¬(s.mode = .application ∧ privilegedByte b0 = true)) {i : Nat} (hi : i < hd.ilen)
    (hbefore : ∀ j, j < i → admits s .fetch (byteAddr s.pc (3 + j)) 1 = true)
    (hrefused : admits s .fetch (byteAddr s.pc (3 + i)) 1 = false) :
    fetchDecoded s b0 b1 b2 = .error (.memoryFault (byteAddr s.pc (3 + i)) .fetch) := by
  have shift : ∀ j, byteAddr (s.pc + 3) j = byteAddr s.pc (3 + j) := byteAddr_add s.pc 3
  have hfetch : fetchBytes s (s.pc + 3) hd.ilen = .error (.memoryFault (byteAddr s.pc (3 + i)) .fetch) := by
    rw [← shift]
    exact fetchBytes_of_refused hi (fun j hj => shift j ▸ hbefore j hj) (shift i ▸ hrefused)
  have hcheck : ¬(privilegedByte b0 && s.mode == .application) = true := by
    simpa [and_comm] using hrun
  simp only [fetchDecoded, h, if_neg hcheck, hfetch]

end Decoded

/-- A fault of fetching or decoding is raised on the state that has taken the interrupt sample (log 20). -/
theorem step_of_fetchInstr_error {s : State} {f : Fault} (hr : s.status = .running)
    (hq : s.ai = false ∨ irqRequest s = none) (h : fetchInstr (sampled s) = .error f) :
    step s = .next ((sampled s).raise f) := by
  rw [step_eq_runInstr hr hq, runInstr, h]

/-- Settles O51: the sample changes nothing that fetching looks at, so each clause is the fault fetching answers. -/
theorem fetchFaults : Obligations.FetchFaults := by
  intro s hr hq
  have raised : ∀ {f}, fetchInstr (sampled s) = .error f → step s = .next ((sampled s).raise f) :=
    step_of_fetchInstr_error hr hq
  refine ⟨fun i hi hbefore h => raised (fetchInstr_of_refused (s := sampled s) hi hbefore h), fun hbase => ?_⟩
  have hdecoded := fetchInstr_of_admits (s := sampled s) hbase
  refine ⟨fun e he => ?_, fun hd hok => ⟨fun hmode hprivileged => ?_, fun hrun i hi hbefore h => ?_⟩⟩
  · exact raised (hdecoded.trans (fetchDecoded_of_illegal he))
  · exact raised (hdecoded.trans (fetchDecoded_of_privileged hok hmode hprivileged))
  · exact raised (hdecoded.trans (fetchDecoded_of_refused (s := sampled s) hok hrun hi hbefore h))

/-! ### With every access admitted (20_memory.md R58, 60_exceptions.md R266) -/

theorem sourceAdmitted_of_loaded {s : State} {src : Source}
    (h : ∀ addr sz, Source.loaded s src = some (addr, sz) → admits s .read addr sz.bytes = true) :
    sourceAdmitted s src = true := by
  cases src with
  | reg b | imm imm => rfl
  | mem sz m => exact h _ _ rfl

/-- Only DIV can have no result, and then by DivideError (60_exceptions.md R264). -/
theorem aluResult_eq_error {signed : Bool} {op : AluOp} {x y : Word} {f : Fault}
    (h : aluResult signed op x y = .error f) : f = .divideError := by
  cases op with
  | div => simp only [aluResult, quotient] at h; split_ifs at h <;> cases h <;> rfl
  | _ => cases h

/-- An instruction has completed, with the status as it was, or has raised one of the faults that have nothing to do
with MemMap. -/
def CompletesOrStops (s t : State) : Prop :=
  t.status = s.status ∨ t = s.raise .divideError ∨ t = s.raise (.privilegeViolation s.pc)

/-- A privileged body that completes, in either mode (45_system.md R240). -/
theorem conclude_supervisorOnly_ok {s u : State} (h : u.status = s.status) :
    ∃ t, conclude s (supervisorOnly s (.ok u)) = .next t ∧ CompletesOrStops s t := by
  cases hmode : s.mode with
  | supervisor => rw [supervisorOnly_supervisor hmode]; exact ⟨u, rfl, .inl h⟩
  | application => rw [supervisorOnly_application hmode]; exact ⟨_, rfl, .inr (.inr rfl)⟩

/-- An operation whose data read and store, where it makes them, are admitted has no other reason to fault than those
of DIV and of a privileged instruction. -/
theorem run_of_admitted {s : State} {o : Operation}
    (hload : ∀ addr sz, o.loaded s = some (addr, sz) → admits s .read addr sz.bytes = true)
    (hstore : ∀ addr sz, o.stored s = some (addr, sz) → admits s .write addr sz.bytes = true) :
    ∃ t, o.run s = .next t ∧ CompletesOrStops s t := by
  cases o with
  | binary op a src =>
    rw [Operation.loaded_binary] at hload
    simp only [Operation.run, binaryAlu, srcVal_of_admitted _ (sourceAdmitted_of_loaded hload)]
    split
    · next h => exact ⟨_, rfl, .inr (.inl (by rw [aluResult_eq_error h]))⟩
    · exact ⟨_, rfl, .inl (by simp)⟩
  | unary op a =>
    simp only [Operation.run, unaryAlu]
    split
    · next h => exact ⟨_, rfl, .inr (.inl (by rw [aluResult_eq_error h]))⟩
    · exact ⟨_, rfl, .inl (by simp)⟩
  | compare a src =>
    rw [Operation.loaded_compare] at hload
    simp only [Operation.run, compareOperands, srcVal_of_admitted _ (sourceAdmitted_of_loaded hload)]
    exact ⟨_, rfl, .inl rfl⟩
  | load k a src =>
    rw [Operation.loaded_load] at hload
    simp only [Operation.run, load, srcVal_of_admitted _ (sourceAdmitted_of_loaded hload)]
    exact ⟨_, rfl, .inl rfl⟩
  | address | jump | nop => exact ⟨_, rfl, .inl rfl⟩
  | store a sz m =>
    simp only [Operation.run, store, memWrite_eq, if_pos (hstore _ _ rfl)]
    exact ⟨_, rfl, .inl (by simp)⟩
  | push sz src =>
    simp only [Operation.run, pushOperand, push_eq, if_pos (hstore _ _ rfl)]
    exact ⟨_, rfl, .inl (by simp)⟩
  | mark a =>
    simp only [Operation.run, markFrame, push_eq, if_pos (hstore _ _ rfl)]
    exact ⟨_, rfl, .inl (by simp)⟩
  | call target =>
    simp only [Operation.run, call, push_eq, if_pos (hstore _ _ rfl)]
    exact ⟨_, rfl, .inl (by simp)⟩
  | sys =>
    simp only [Operation.run, execSys, trapEntry_eq, if_pos (hstore _ _ rfl)]
    exact ⟨_, rfl, .inl (by simp)⟩
  | pop sz a =>
    simp only [Operation.run, popRegister, pop_eq, if_pos (hload _ _ rfl)]
    exact ⟨_, rfl, .inl rfl⟩
  | free a =>
    simp only [Operation.run, freeFrame, memRead_eq, if_pos (hload _ _ rfl)]
    exact ⟨_, rfl, .inl rfl⟩
  | ret =>
    simp only [Operation.run, execRet, pop_eq, if_pos (hload _ _ rfl)]
    exact ⟨_, rfl, .inl rfl⟩
  | rti =>
    simp only [Operation.run, execRti, trapReturn_eq, if_pos (hload _ _ rfl)]
    exact conclude_supervisorOnly_ok rfl
  | portIn a sz src =>
    rw [Operation.loaded_portIn] at hload
    simp only [Operation.run, portIn, srcVal_of_admitted _ (sourceAdmitted_of_loaded hload)]
    exact conclude_supervisorOnly_ok rfl
  | portOut a sz src =>
    rw [Operation.loaded_portOut] at hload
    simp only [Operation.run, portOut, srcVal_of_admitted _ (sourceAdmitted_of_loaded hload)]
    exact conclude_supervisorOnly_ok rfl
  | setting a sz src =>
    rw [Operation.loaded_setting] at hload
    simp only [Operation.run, setSetting, srcVal_of_admitted _ (sourceAdmitted_of_loaded hload)]
    exact conclude_supervisorOnly_ok (by simp)

/-- The state has not been stopped by a MemoryFault. -/
def NoMemoryFault (t : State) : Prop := ∀ addr kind, t.status ≠ .faulted (.memoryFault addr kind)

theorem noMemoryFault_of_running {t : State} (h : t.status = .running) : NoMemoryFault t := by
  intro addr kind
  simp [h]

section NoHoles

variable {s t : State}

theorem exec_noMemoryFault (hholes : s.cfg.holes = []) (hr : s.status = .running) {i : Instr}
    (h : exec i s = .next t) : NoMemoryFault t := by
  obtain ⟨u, hrun, hu⟩ := run_of_admitted (s := s) (o := i.operation)
    (fun addr sz _ => admits_of_no_holes hholes .read addr sz.bytes)
    (fun addr sz _ => admits_of_no_holes hholes .write addr sz.bytes)
  rw [exec_eq_run, hrun] at h
  cases h
  obtain hstatus | rfl | rfl := hu
  · exact noMemoryFault_of_running (hstatus.trans hr)
  · exact fun _ _ => nofun
  · exact fun _ _ => nofun

/-- Fetching and decoding then fault only by IllegalInstruction or PrivilegeViolation. -/
theorem fetchInstr_eq_error (hholes : s.cfg.holes = []) {f : Fault} (h : fetchInstr s = .error f) :
    (∃ b0 b1 b2, f = .illegalInstruction s.pc b0 b1 b2) ∨ f = .privilegeViolation s.pc := by
  have hadmits : ∀ a n, admitsFetch s a n = true := fun a n =>
    (admitsFetch_iff s a n).mpr fun i _ => admits_of_no_holes hholes .fetch (byteAddr a i) 1
  rw [fetchInstr_of_admits (hadmits s.pc 3), fetchDecoded] at h
  split at h
  · cases h; exact .inl ⟨_, _, _, rfl⟩
  · split at h
    · cases h; exact .inr rfl
    · rw [fetchBytes_of_admits (hadmits _ _)] at h; cases h

theorem runInstr_noMemoryFault (hholes : s.cfg.holes = []) (hr : s.status = .running)
    (h : runInstr s = .next t) : NoMemoryFault t := by
  obtain ⟨i, -, hrun⟩ | ⟨f, hfetch, hrun⟩ := runInstr_cases s
  · exact exec_noMemoryFault hholes hr (hrun.symm.trans h)
  · cases hrun.symm.trans h
    obtain ⟨b0, b1, b2, rfl⟩ | rfl := fetchInstr_eq_error hholes hfetch
    · exact fun _ _ => nofun
    · exact fun _ _ => nofun

theorem interruptEntry_noMemoryFault (hholes : s.cfg.holes = []) (hr : s.status = .running) {k : Nat}
    (h : interruptEntry k s = .next t) : NoMemoryFault t := by
  simp only [interruptEntry, trapEntry_eq, if_pos (admits_of_no_holes hholes ..), conclude_ok] at h
  cases h
  exact noMemoryFault_of_running (by simpa using hr)

end NoHoles

/-- Settles O54: neither an interrupt's entry nor an instruction, fetched or executed, has another reason for a
MemoryFault than an access that MemMap refuses. -/
theorem noMemoryFaultByDefault : Obligations.NoMemoryFaultByDefault := by
  intro s t addr kind hholes hr h
  obtain ⟨k, -, -, hstep⟩ | ⟨hstep, -⟩ := step_cases hr
  · exact interruptEntry_noMemoryFault (s := sampled s) hholes hr (hstep.symm.trans h) addr kind
  · exact runInstr_noMemoryFault (s := sampled s) hholes hr (hstep.symm.trans h) addr kind

end Sys2Proof.Machine

/-! ## Proofs of the family 30_encoding: decoding and encoding undo each other, the length of what decodes, the legal
bases, and privilege by the first byte

The decoder's rows and the encoder's cases are compared once each: every first byte stands for one of the fifteen formats
of R91 to R94 or for none (`mapped`), and every instruction is written in one (`Instr.hasReading`). All the rest is about
the formats. -/

namespace Sys2Proof

/-! ### The fields of a base (30_encoding.md R81) -/

/-- The fields of the second and third byte, as `decodeBase` reads them. -/
def Fields.ofBytes (strict : Bool) (b1 b2 : Byte) : Fields :=
  { strict := strict, idx := highNibble b1, size := lowNibble b1, a := highNibble b2, b := lowNibble b2 }

/-- The second byte of the base. -/
def Fields.byte1 (f : Fields) : Byte := byteOf f.idx f.size

/-- The third byte of the base. -/
def Fields.byte2 (f : Fields) : Byte := byteOf f.a f.b

@[simp] theorem Fields.byte1_ofBytes (strict : Bool) (b1 b2 : Byte) : (Fields.ofBytes strict b1 b2).byte1 = b1 :=
  byteOf_nibbles b1

@[simp] theorem Fields.byte2_ofBytes (strict : Bool) (b1 b2 : Byte) : (Fields.ofBytes strict b1 b2).byte2 = b2 :=
  byteOf_nibbles b2

theorem Fields.ofBytes_bytes (f : Fields) : Fields.ofBytes f.strict f.byte1 f.byte2 = f := by
  simp [Fields.ofBytes, Fields.byte1, Fields.byte2]

theorem Size.exists_toNibble_iff (n : Nibble) : (∃ sz : Size, n = sz.toNibble) ↔ n.toNat ≤ 3 := by
  rw [← decide_eq_true_iff (p := n.toNat ≤ 3), ← Size.ofNibble?_isSome, Option.isSome_iff_exists]
  exact exists_congr fun sz => ⟨fun h => by rw [h, Size.ofNibble?_toNibble], Size.ofNibble?_eq_some⟩

theorem Cond.exists_toNibble_iff (n : Nibble) :
    (∃ c : Cond, n = c.toNibble) ↔ ¬(8 ≤ n.toNat ∧ n.toNat ≤ 14) := by
  have hsome := Cond.ofNibble?_isSome n
  rw [← Bool.decide_and, ← decide_not] at hsome
  rw [← decide_eq_true_iff (p := ¬(8 ≤ n.toNat ∧ n.toNat ≤ 14)), ← hsome, Option.isSome_iff_exists]
  exact exists_congr fun c => ⟨fun h => by rw [h, Cond.ofNibble?_toNibble], Cond.ofNibble?_eq_some⟩

/-- The condition whose code stands in Operand A, as format JCC uses it (30_encoding.md R105). -/
def Fields.onCond (f : Fields) (k : Cond → Except DecodeError Header) : Except DecodeError Header :=
  match Cond.ofNibble? f.a with
  | some c => k c
  | none => .error .reservedCondition

theorem Fields.jccReg_eq_onCond (f : Fields) :
    f.jccReg = f.onCond fun c => f.unused [f.idx, f.size] (.ok (.plain (Sys2Proof.jccReg c (Reg.ofNibble f.b)))) := rfl

theorem Fields.jccImm_eq_onCond (f : Fields) :
    f.jccImm = f.onCond fun c => f.unused [f.idx, f.size] (f.immediate (Sys2Proof.jccImm c)) := rfl

theorem Fields.onCond_eq_ok {f : Fields} {k : Cond → Except DecodeError Header} {h : Header} :
    f.onCond k = .ok h ↔ ∃ c, f.a = c.toNibble ∧ k c = .ok h := by
  constructor
  · intro hok
    unfold Fields.onCond at hok
    split at hok
    · next c hc => exact ⟨c, Cond.ofNibble?_eq_some hc, hok⟩
    · cases hok
  · rintro ⟨c, hc, hok⟩
    simpa only [Fields.onCond, hc, Cond.ofNibble?_toNibble] using hok

/-! ### What a base announces: an instruction, or one for each value of an immediate -/

/-- The instruction a base announces, with the value of its immediate where it has one. -/
def Header.instr (h : Header) (v : Word) : Instr :=
  match h with
  | .plain i => i
  | .withImm sz mk => mk { size := sz, value := v }

/-- The immediate a base announces, with its value. -/
def Header.imm? (h : Header) (v : Word) : Option Imm :=
  match h with
  | .plain _ => none
  | .withImm sz _ => some { size := sz, value := v }

/-- The bytes that follow the base. -/
def Header.tail (h : Header) (v : Word) : List Byte := (h.imm? v).elim [] Imm.encode

@[simp] theorem Header.tail_length (h : Header) (v : Word) : (h.tail v).length = h.ilen := by
  cases h with
  | plain i => rfl
  | withImm sz mk => exact Imm.encode_length _

/-- A string decodes exactly when its base does and the bytes of a fitting immediate follow where one is announced. -/
theorem decode_eq_ok_iff {strict : Bool} {bytes rest : List Byte} {i : Instr} :
    decode strict bytes = .ok (i, rest) ↔
      ∃ b0 b1 b2 h v, decodeBase strict b0 b1 b2 = .ok h ∧ h.instr v = i ∧
        (h.imm? v).all Imm.fits = true ∧ bytes = b0 :: b1 :: b2 :: (h.tail v ++ rest) := by
  constructor
  · intro hdecode
    obtain ⟨b0, b1, b2, ⟨hbase, rfl⟩ | ⟨imm, mk, hbase, rfl, hfits, rfl⟩⟩ := decode_eq_ok hdecode
    · exact ⟨b0, b1, b2, .plain i, 0, hbase, rfl, rfl, rfl⟩
    · exact ⟨b0, b1, b2, .withImm imm.size mk, imm.value, hbase, rfl, hfits, rfl⟩
  · rintro ⟨b0, b1, b2, h, v, hbase, rfl, hfits, rfl⟩
    cases h with
    | plain i => exact decode_plain rest hbase
    | withImm sz mk => exact decode_withImm { size := sz, value := v } rest hbase hfits

/-- The instructions announced are encoded with this first byte and these fields, and have the immediate announced. -/
def Header.EncodedAs (h : Header) (b0 : Byte) (f : Fields) : Prop :=
  ∀ v, (h.instr v).imm? = h.imm? v ∧ encode (h.instr v) = b0 :: f.byte1 :: f.byte2 :: h.tail v

/-! ### The formats (30_encoding.md R91 to R94) -/

/-- The formats, by the fields they use, each with the instruction it makes of them. -/
inductive Format where
  | regReg      (mk : Reg → Reg → Instr)
  | regImm      (mk : Reg → Imm → Instr)
  | regInd      (mk : Size → Reg → Reg → Instr)
  | regDir      (mk : Size → Reg → Imm → Instr)
  | regIndIdx   (mk : Reg → Size → Reg → Reg → Instr)
  | regDirIdx   (mk : Reg → Size → Reg → Imm → Instr)
  | una         (mk : Reg → Instr)
  | unaSized    (mk : Size → Reg → Instr)
  | unb         (mk : Reg → Instr)
  | unbImm      (mk : Imm → Instr)
  | unbSized    (mk : Size → Reg → Instr)
  | unbSizedImm (mk : Size → Imm → Instr)
  | bare        (i : Instr)
  | jccReg
  | jccImm

namespace Format

/-- The decoder of a format. -/
def header : Format → Fields → Except DecodeError Header
  | .regReg mk, f => f.regReg mk
  | .regImm mk, f => f.regImm mk
  | .regInd mk, f => f.regInd mk
  | .regDir mk, f => f.regDir mk
  | .regIndIdx mk, f => f.regIndIdx mk
  | .regDirIdx mk, f => f.regDirIdx mk
  | .una mk, f => f.una mk
  | .unaSized mk, f => f.unaSized mk
  | .unb mk, f => f.unb mk
  | .unbImm mk, f => f.unbImm mk
  | .unbSized mk, f => f.unbSized mk
  | .unbSizedImm mk, f => f.unbSizedImm mk
  | .bare i, f => f.bare i
  | .jccReg, f => f.jccReg
  | .jccImm, f => f.jccImm

/-- Operand B is an immediate's size code. -/
def hasImm : Format → Bool
  | .regImm _ | .regDir _ | .regDirIdx _ | .unbImm _ | .unbSizedImm _ | .jccImm => true
  | _ => false

/-- The Size code is used. -/
def usesSize : Format → Bool
  | .regInd _ | .regDir _ | .regIndIdx _ | .regDirIdx _ | .unaSized _ | .unbSized _ | .unbSizedImm _ => true
  | _ => false

/-- Operand A is a condition code. -/
def hasCond : Format → Bool
  | .jccReg | .jccImm => true
  | _ => false

/-- The fields an encoding in this format has, the unused ones zero (R104), and what they announce. -/
inductive Canonical (strict : Bool) : Format → Fields → Header → Prop
  | regReg {mk} (a b : Reg) : Canonical strict (.regReg mk) ⟨strict, 0, 0, a.toNibble, b.toNibble⟩ (.plain (mk a b))
  | regImm {mk} (a : Reg) (sz : Size) :
      Canonical strict (.regImm mk) ⟨strict, 0, 0, a.toNibble, sz.toNibble⟩ (.withImm sz (mk a))
  | regInd {mk} (w : Size) (a b : Reg) :
      Canonical strict (.regInd mk) ⟨strict, 0, w.toNibble, a.toNibble, b.toNibble⟩ (.plain (mk w a b))
  | regDir {mk} (w : Size) (a : Reg) (sz : Size) :
      Canonical strict (.regDir mk) ⟨strict, 0, w.toNibble, a.toNibble, sz.toNibble⟩ (.withImm sz (mk w a))
  | regIndIdx {mk} (idx : Reg) (w : Size) (a b : Reg) :
      Canonical strict (.regIndIdx mk) ⟨strict, idx.toNibble, w.toNibble, a.toNibble, b.toNibble⟩
        (.plain (mk idx w a b))
  | regDirIdx {mk} (idx : Reg) (w : Size) (a : Reg) (sz : Size) :
      Canonical strict (.regDirIdx mk) ⟨strict, idx.toNibble, w.toNibble, a.toNibble, sz.toNibble⟩
        (.withImm sz (mk idx w a))
  | una {mk} (a : Reg) : Canonical strict (.una mk) ⟨strict, 0, 0, a.toNibble, 0⟩ (.plain (mk a))
  | unaSized {mk} (w : Size) (a : Reg) :
      Canonical strict (.unaSized mk) ⟨strict, 0, w.toNibble, a.toNibble, 0⟩ (.plain (mk w a))
  | unb {mk} (b : Reg) : Canonical strict (.unb mk) ⟨strict, 0, 0, 0, b.toNibble⟩ (.plain (mk b))
  | unbImm {mk} (sz : Size) : Canonical strict (.unbImm mk) ⟨strict, 0, 0, 0, sz.toNibble⟩ (.withImm sz mk)
  | unbSized {mk} (w : Size) (b : Reg) :
      Canonical strict (.unbSized mk) ⟨strict, 0, w.toNibble, 0, b.toNibble⟩ (.plain (mk w b))
  | unbSizedImm {mk} (w sz : Size) :
      Canonical strict (.unbSizedImm mk) ⟨strict, 0, w.toNibble, 0, sz.toNibble⟩ (.withImm sz (mk w))
  | bare {i} : Canonical strict (.bare i) ⟨strict, 0, 0, 0, 0⟩ (.plain i)
  | jccReg (c : Cond) (b : Reg) :
      Canonical strict .jccReg ⟨strict, 0, 0, c.toNibble, b.toNibble⟩ (.plain (Sys2Proof.jccReg c b))
  | jccImm (c : Cond) (sz : Size) :
      Canonical strict .jccImm ⟨strict, 0, 0, c.toNibble, sz.toNibble⟩ (.withImm sz (Sys2Proof.jccImm c))

variable {fmt : Format} {strict : Bool} {f : Fields} {h : Header}

theorem Canonical.strict_eq (hc : Canonical strict fmt f h) : f.strict = strict := by
  cases hc <;> rfl

/-- Canonical fields decode, under STRICT_RESERVED too, to what they announce. -/
theorem Canonical.header_eq_ok (hc : Canonical strict fmt f h) : fmt.header f = .ok h := by
  cases hc with
  | regReg | una | unb | bare => simp [header, Fields.regReg, Fields.una, Fields.unb, Fields.bare, Fields.unused]
  | regImm | unbImm => simp [header, Fields.regImm, Fields.unbImm, Fields.unused, Fields.immediate]
  | regInd | regIndIdx | unaSized | unbSized =>
    simp [header, Fields.regInd, Fields.regIndIdx, Fields.unaSized, Fields.unbSized, Fields.unused, Fields.sized]
  | regDir | regDirIdx | unbSizedImm =>
    simp [header, Fields.regDir, Fields.regDirIdx, Fields.unbSizedImm, Fields.unused, Fields.sized, Fields.immediate]
  | jccReg => simp [header, Fields.jccReg, Fields.unused]
  | jccImm => simp [header, Fields.jccImm, Fields.unused, Fields.immediate]

/-- What decodes announces what some canonical fields announce; under STRICT_RESERVED these are its own fields. -/
theorem exists_canonical (hok : fmt.header f = .ok h) :
    ∃ g, Canonical f.strict fmt g h ∧ (f.strict = true → g = f) := by
  obtain ⟨strict, idx, size, a, b⟩ := f
  cases fmt with
  | regReg | una | unb | bare =>
    obtain ⟨hzero, ⟨⟩⟩ := Fields.unused_eq_ok.mp hok
    exact ⟨_, by constructor, fun hs => by simp_all⟩
  | regImm | unbImm =>
    obtain ⟨hzero, hrest⟩ := Fields.unused_eq_ok.mp hok
    obtain ⟨sz, rfl, rfl⟩ := Fields.immediate_eq_ok.mp hrest
    exact ⟨_, by constructor, fun hs => by simp_all⟩
  | regInd | unaSized | unbSized =>
    obtain ⟨hzero, hrest⟩ := Fields.unused_eq_ok.mp hok
    obtain ⟨w, rfl, ⟨⟩⟩ := Fields.sized_eq_ok.mp hrest
    exact ⟨_, by constructor, fun hs => by simp_all⟩
  | regDir | unbSizedImm =>
    obtain ⟨hzero, hrest⟩ := Fields.unused_eq_ok.mp hok
    obtain ⟨w, rfl, hrest⟩ := Fields.sized_eq_ok.mp hrest
    obtain ⟨sz, rfl, rfl⟩ := Fields.immediate_eq_ok.mp hrest
    exact ⟨_, by constructor, fun hs => by simp_all⟩
  | regIndIdx =>
    obtain ⟨w, rfl, ⟨⟩⟩ := Fields.sized_eq_ok.mp hok
    exact ⟨_, by constructor, fun hs => by simp_all⟩
  | regDirIdx =>
    obtain ⟨w, rfl, hrest⟩ := Fields.sized_eq_ok.mp hok
    obtain ⟨sz, rfl, rfl⟩ := Fields.immediate_eq_ok.mp hrest
    exact ⟨_, by constructor, fun hs => by simp_all⟩
  | jccReg =>
    obtain ⟨c, rfl, hrest⟩ := Fields.onCond_eq_ok.mp ((Fields.jccReg_eq_onCond _).symm.trans hok)
    obtain ⟨hzero, ⟨⟩⟩ := Fields.unused_eq_ok.mp hrest
    exact ⟨_, by constructor, fun hs => by simp_all⟩
  | jccImm =>
    obtain ⟨c, rfl, hrest⟩ := Fields.onCond_eq_ok.mp ((Fields.jccImm_eq_onCond _).symm.trans hok)
    obtain ⟨hzero, hrest⟩ := Fields.unused_eq_ok.mp hrest
    obtain ⟨sz, rfl, rfl⟩ := Fields.immediate_eq_ok.mp hrest
    exact ⟨_, by constructor, fun hs => by simp_all⟩

/-- With unused fields ignored, the used Size codes and condition codes decide what is legal (R86, R89, R105). -/
theorem exists_header_iff (hstrict : f.strict = false) :
    (∃ h, fmt.header f = .ok h) ↔
      ¬(fmt.hasImm = true ∧ 3 < f.b.toNat) ∧ ¬(fmt.usesSize = true ∧ 3 < f.size.toNat) ∧
        ¬(fmt.hasCond = true ∧ 8 ≤ f.a.toNat ∧ f.a.toNat ≤ 14) := by
  have hsize := Size.exists_toNibble_iff f.size
  have himm := Size.exists_toNibble_iff f.b
  have hcond := Cond.exists_toNibble_iff f.a
  cases fmt with
  | regReg | una | unb | bare =>
    simp [header, Fields.regReg, Fields.una, Fields.unb, Fields.bare, Fields.unused, hstrict, hasImm, usesSize, hasCond]
  | regImm | unbImm =>
    simp [header, Fields.regImm, Fields.unbImm, Fields.unused, hstrict, Fields.immediate_eq_ok, hasImm, usesSize,
      hasCond, himm]
  | regInd | regIndIdx | unaSized | unbSized =>
    simp [header, Fields.regInd, Fields.regIndIdx, Fields.unaSized, Fields.unbSized, Fields.unused, hstrict,
      Fields.sized_eq_ok, hasImm, usesSize, hasCond, hsize]
  | regDir | regDirIdx | unbSizedImm =>
    simp [header, Fields.regDir, Fields.regDirIdx, Fields.unbSizedImm, Fields.unused, hstrict,
      Fields.sized_eq_ok, Fields.immediate_eq_ok, hasImm, usesSize, hasCond, hsize, himm, and_comm]
  | jccReg =>
    simp [header, Fields.jccReg_eq_onCond, Fields.onCond_eq_ok, Fields.unused, hstrict, hasImm, usesSize, hasCond,
      hcond]
  | jccImm =>
    simp [header, Fields.jccImm_eq_onCond, Fields.onCond_eq_ok, Fields.immediate_eq_ok, Fields.unused, hstrict, hasImm,
      usesSize, hasCond, himm, hcond, and_comm]

/-! ### The opcode map (30_encoding.md R95): the format each first byte stands for -/

/-- A first byte stands for a format: the decoder's row decodes by it, and the encoder's cases write its fields. -/
structure Codes (fmt : Format) (b0 : Byte) : Prop where
  decodes : ∀ strict b1 b2, decodeBase strict b0 b1 b2 = fmt.header (Fields.ofBytes strict b1 b2) := by
    intros; rfl
  encodes : ∀ strict f h, Canonical strict fmt f h → h.EncodedAs b0 f := by
    rintro _ _ _ ⟨⟩ v; exact ⟨rfl, rfl⟩

theorem jccReg_codes : jccReg.Codes 0x68 where
  encodes := by
    intro strict f h hc
    cases hc with
    | jccReg c b => cases c <;> exact fun _ => ⟨rfl, rfl⟩

theorem jccImm_codes : jccImm.Codes 0x69 where
  encodes := by
    intro strict f h hc
    cases hc with
    | jccImm c sz => cases c <;> exact fun _ => ⟨rfl, rfl⟩

end Format

/-- The first byte with these two nibbles. -/
def firstByte (hi lo : Nat) : Byte := byteOf (BitVec.ofNat 4 hi) (BitVec.ofNat 4 lo)

/-- A first byte stands for a format, or no base begins with it (30_encoding.md R100, R101). -/
inductive Mapped (b0 : Byte) : Prop
  | format (fmt : Format) (hcodes : fmt.Codes b0 := by exact {})
  | illegal (herror : ∃ e, ∀ strict b1 b2, decodeBase strict b0 b1 b2 = .error e := by
      exact ⟨_, fun _ _ _ => rfl⟩)

/-! The rows of the opcode map, as the decoder has them. -/

theorem mapped_row0 : ∀ lo < 16, Mapped (firstByte 0x0 lo)
  | 2, _ => .format (.regReg .andRegReg)
  | 3, _ => .format (.regImm .andRegImm)
  | 4, _ => .format (.regInd .andRegInd)
  | 5, _ => .format (.regDir .andRegDir)
  | 6, _ => .format (.regIndIdx .andRegIndIdx)
  | 7, _ => .format (.regDirIdx .andRegDirIdx)
  | 8, _ => .format (.una .notReg)
  | 0, _ | 1, _ | 9, _ | 10, _ | 11, _ | 12, _ | 13, _ | 14, _ | 15, _ => .illegal
  | _ + 16, h => absurd h (by omega)

theorem mapped_row1 : ∀ lo < 16, Mapped (firstByte 0x1 lo)
  | 2, _ => .format (.regReg .orRegReg)
  | 3, _ => .format (.regImm .orRegImm)
  | 4, _ => .format (.regInd .orRegInd)
  | 5, _ => .format (.regDir .orRegDir)
  | 6, _ => .format (.regIndIdx .orRegIndIdx)
  | 7, _ => .format (.regDirIdx .orRegDirIdx)
  | 8, _ => .format (.una .negReg)
  | 0, _ | 1, _ | 9, _ | 10, _ | 11, _ | 12, _ | 13, _ | 14, _ | 15, _ => .illegal
  | _ + 16, h => absurd h (by omega)

theorem mapped_row2 : ∀ lo < 16, Mapped (firstByte 0x2 lo)
  | 2, _ => .format (.regReg .xorRegReg)
  | 3, _ => .format (.regImm .xorRegImm)
  | 4, _ => .format (.regInd .xorRegInd)
  | 5, _ => .format (.regDir .xorRegDir)
  | 6, _ => .format (.regIndIdx .xorRegIndIdx)
  | 7, _ => .format (.regDirIdx .xorRegDirIdx)
  | 8, _ => .format (.una .freeReg)
  | 0, _ | 1, _ | 9, _ | 10, _ | 11, _ | 12, _ | 13, _ | 14, _ | 15, _ => .illegal
  | _ + 16, h => absurd h (by omega)

theorem mapped_row3 : ∀ lo < 16, Mapped (firstByte 0x3 lo)
  | 2, _ => .format (.regReg .addRegReg)
  | 3, _ => .format (.regImm .addRegImm)
  | 4, _ => .format (.regInd .addRegInd)
  | 5, _ => .format (.regDir .addRegDir)
  | 6, _ => .format (.regIndIdx .addRegIndIdx)
  | 7, _ => .format (.regDirIdx .addRegDirIdx)
  | 8, _ => .format (.una .markReg)
  | 0, _ | 1, _ | 9, _ | 10, _ | 11, _ | 12, _ | 13, _ | 14, _ | 15, _ => .illegal
  | _ + 16, h => absurd h (by omega)

theorem mapped_row4 : ∀ lo < 16, Mapped (firstByte 0x4 lo)
  | 2, _ => .format (.regReg .subRegReg)
  | 3, _ => .format (.regImm .subRegImm)
  | 4, _ => .format (.regInd .subRegInd)
  | 5, _ => .format (.regDir .subRegDir)
  | 6, _ => .format (.regIndIdx .subRegIndIdx)
  | 7, _ => .format (.regDirIdx .subRegDirIdx)
  | 8, _ => .format (.unaSized .popReg)
  | 0, _ | 1, _ | 9, _ | 10, _ | 11, _ | 12, _ | 13, _ | 14, _ | 15, _ => .illegal
  | _ + 16, h => absurd h (by omega)

theorem mapped_row5 : ∀ lo < 16, Mapped (firstByte 0x5 lo)
  | 2, _ => .format (.regReg .mulRegReg)
  | 3, _ => .format (.regImm .mulRegImm)
  | 4, _ => .format (.regInd .mulRegInd)
  | 5, _ => .format (.regDir .mulRegDir)
  | 6, _ => .format (.regIndIdx .mulRegIndIdx)
  | 7, _ => .format (.regDirIdx .mulRegDirIdx)
  | 8, _ => .format (.unbSized .pushReg)
  | 9, _ => .format (.unbSizedImm .pushImm)
  | 0, _ | 1, _ | 10, _ | 11, _ | 12, _ | 13, _ | 14, _ | 15, _ => .illegal
  | _ + 16, h => absurd h (by omega)

theorem mapped_row6 : ∀ lo < 16, Mapped (firstByte 0x6 lo)
  | 2, _ => .format (.regReg .divRegReg)
  | 3, _ => .format (.regImm .divRegImm)
  | 4, _ => .format (.regInd .divRegInd)
  | 5, _ => .format (.regDir .divRegDir)
  | 6, _ => .format (.regIndIdx .divRegIndIdx)
  | 7, _ => .format (.regDirIdx .divRegDirIdx)
  | 8, _ => .format .jccReg Format.jccReg_codes
  | 9, _ => .format .jccImm Format.jccImm_codes
  | 0, _ | 1, _ | 10, _ | 11, _ | 12, _ | 13, _ | 14, _ | 15, _ => .illegal
  | _ + 16, h => absurd h (by omega)

theorem mapped_row7 : ∀ lo < 16, Mapped (firstByte 0x7 lo)
  | 8, _ => .format (.unb .callReg)
  | 9, _ => .format (.unbImm .callImm)
  | 0, _ | 1, _ | 2, _ | 3, _ | 4, _ | 5, _ | 6, _ | 7, _ | 10, _ | 11, _ | 12, _ | 13, _ | 14, _ | 15, _ => .illegal
  | _ + 16, h => absurd h (by omega)

theorem mapped_row8 : ∀ lo < 16, Mapped (firstByte 0x8 lo)
  | 0, _ | 1, _ | 2, _ | 3, _ | 4, _ | 5, _ | 6, _ | 7, _ | 8, _ | 9, _ | 10, _ | 11, _ | 12, _
  | 13, _ | 14, _ | 15, _ => .illegal
  | _ + 16, h => absurd h (by omega)

theorem mapped_row9 : ∀ lo < 16, Mapped (firstByte 0x9 lo)
  | 0, _ | 1, _ | 2, _ | 3, _ | 4, _ | 5, _ | 6, _ | 7, _ | 8, _ | 9, _ | 10, _ | 11, _ | 12, _
  | 13, _ | 14, _ | 15, _ => .illegal
  | _ + 16, h => absurd h (by omega)

theorem mapped_rowA : ∀ lo < 16, Mapped (firstByte 0xA lo)
  | 2, _ => .format (.regReg .lduRegReg)
  | 3, _ => .format (.regImm .lduRegImm)
  | 4, _ => .format (.regInd .lduRegInd)
  | 5, _ => .format (.regDir .lduRegDir)
  | 6, _ => .format (.regIndIdx .lduRegIndIdx)
  | 7, _ => .format (.regDirIdx .lduRegDirIdx)
  | 0, _ | 1, _ | 8, _ | 9, _ | 10, _ | 11, _ | 12, _ | 13, _ | 14, _ | 15, _ => .illegal
  | _ + 16, h => absurd h (by omega)

theorem mapped_rowB : ∀ lo < 16, Mapped (firstByte 0xB lo)
  | 2, _ => .format (.regReg .ldrRegReg)
  | 3, _ => .format (.regImm .ldrRegImm)
  | 4, _ => .format (.regInd .ldrRegInd)
  | 5, _ => .format (.regDir .ldrRegDir)
  | 6, _ => .format (.regIndIdx .ldrRegIndIdx)
  | 7, _ => .format (.regDirIdx .ldrRegDirIdx)
  | 10, _ => .format (.regInd .inRegReg)
  | 11, _ => .format (.regDir .inRegImm)
  | 12, _ => .format (.regInd .inRegInd)
  | 13, _ => .format (.regDir .inRegDir)
  | 14, _ => .format (.regIndIdx .inRegIndIdx)
  | 15, _ => .format (.regDirIdx .inRegDirIdx)
  | 0, _ | 1, _ | 8, _ | 9, _ => .illegal
  | _ + 16, h => absurd h (by omega)

theorem mapped_rowC : ∀ lo < 16, Mapped (firstByte 0xC lo)
  | 2, _ => .format (.regReg .cmpRegReg)
  | 3, _ => .format (.regImm .cmpRegImm)
  | 4, _ => .format (.regInd .cmpRegInd)
  | 5, _ => .format (.regDir .cmpRegDir)
  | 6, _ => .format (.regIndIdx .cmpRegIndIdx)
  | 7, _ => .format (.regDirIdx .cmpRegDirIdx)
  | 10, _ => .format (.regInd .outRegReg)
  | 11, _ => .format (.regDir .outRegImm)
  | 12, _ => .format (.regInd .outRegInd)
  | 13, _ => .format (.regDir .outRegDir)
  | 14, _ => .format (.regIndIdx .outRegIndIdx)
  | 15, _ => .format (.regDirIdx .outRegDirIdx)
  | 0, _ | 1, _ | 8, _ | 9, _ => .illegal
  | _ + 16, h => absurd h (by omega)

theorem mapped_rowD : ∀ lo < 16, Mapped (firstByte 0xD lo)
  | 4, _ => .format (.regInd .strRegInd)
  | 5, _ => .format (.regDir .strRegDir)
  | 6, _ => .format (.regIndIdx .strRegIndIdx)
  | 7, _ => .format (.regDirIdx .strRegDirIdx)
  | 10, _ => .format (.regInd .setRegReg)
  | 11, _ => .format (.regDir .setRegImm)
  | 12, _ => .format (.regInd .setRegInd)
  | 13, _ => .format (.regDir .setRegDir)
  | 14, _ => .format (.regIndIdx .setRegIndIdx)
  | 15, _ => .format (.regDirIdx .setRegDirIdx)
  | 0, _ | 1, _ | 2, _ | 3, _ | 8, _ | 9, _ => .illegal
  | _ + 16, h => absurd h (by omega)

theorem mapped_rowE : ∀ lo < 16, Mapped (firstByte 0xE lo)
  | 4, _ => .format (.regReg .leaRegInd)
  | 5, _ => .format (.regImm .leaRegDir)
  | 6, _ => .format (.regIndIdx .leaRegIndIdx)
  | 7, _ => .format (.regDirIdx .leaRegDirIdx)
  | 0, _ | 1, _ | 2, _ | 3, _ | 8, _ | 9, _ | 10, _ | 11, _ | 12, _ | 13, _ | 14, _ | 15, _ => .illegal
  | _ + 16, h => absurd h (by omega)

theorem mapped_rowF : ∀ lo < 16, Mapped (firstByte 0xF lo)
  | 8, _ => .format (.bare .ret)
  | 9, _ => .format (.bare .sys)
  | 10, _ => .format (.bare .rti)
  | 15, _ => .format (.bare .nop)
  | 0, _ | 1, _ | 2, _ | 3, _ | 4, _ | 5, _ | 6, _ | 7, _ | 11, _ | 12, _ | 13, _ | 14, _ => .illegal
  | _ + 16, h => absurd h (by omega)

/-- The format of a first byte with two given nibbles, over the whole map. -/
theorem mapped_firstByte : ∀ hi < 16, ∀ lo < 16, Mapped (firstByte hi lo)
  | 0, _ => mapped_row0
  | 1, _ => mapped_row1
  | 2, _ => mapped_row2
  | 3, _ => mapped_row3
  | 4, _ => mapped_row4
  | 5, _ => mapped_row5
  | 6, _ => mapped_row6
  | 7, _ => mapped_row7
  | 8, _ => mapped_row8
  | 9, _ => mapped_row9
  | 10, _ => mapped_rowA
  | 11, _ => mapped_rowB
  | 12, _ => mapped_rowC
  | 13, _ => mapped_rowD
  | 14, _ => mapped_rowE
  | 15, _ => mapped_rowF
  | _ + 16, h => absurd h (by omega)

/-- The opcode map is total (30_encoding.md R97). -/
theorem mapped (b0 : Byte) : Mapped b0 := by
  have hbyte : firstByte (highNibble b0).toNat (lowNibble b0).toNat = b0 := by simp [firstByte]
  exact hbyte ▸ mapped_firstByte _ (highNibble b0).isLt _ (lowNibble b0).isLt

/-! ### What decodes is encoded so, and what is encoded decodes -/

/-- What a base announces is encoded with its first byte; under STRICT_RESERVED also with its other two (R104). -/
theorem exists_encodedAs {strict : Bool} {b0 b1 b2 : Byte} {h : Header} (hbase : decodeBase strict b0 b1 b2 = .ok h) :
    ∃ g, h.EncodedAs b0 g ∧ (strict = true → g.byte1 = b1 ∧ g.byte2 = b2) := by
  cases mapped b0 with
  | format fmt hcodes =>
    obtain ⟨g, hcanonical, hstrict⟩ := Format.exists_canonical ((hcodes.decodes strict b1 b2).symm.trans hbase)
    exact ⟨g, hcodes.encodes _ g h hcanonical, fun hs => by simp [hstrict hs]⟩
  | illegal herror =>
    obtain ⟨e, he⟩ := herror
    cases (he strict b1 b2).symm.trans hbase

/-- The instruction is announced by canonical fields of the format that the first byte of its encoding stands for. The
rest of its encoding is then these fields (`Format.Codes.encodes`). -/
def Instr.HasReading (strict : Bool) (i : Instr) : Prop :=
  ∃ b0 fmt f h v, (encode i).head? = some b0 ∧ Format.Canonical strict fmt f h ∧ h.instr v = i ∧ fmt.Codes b0

theorem hasReading_jccReg (strict : Bool) (c : Cond) (b : Reg) : Instr.HasReading strict (jccReg c b) :=
  ⟨0x68, _, _, _, 0, by cases c <;> rfl, .jccReg c b, rfl, Format.jccReg_codes⟩

theorem hasReading_jccImm (strict : Bool) (c : Cond) (imm : Imm) : Instr.HasReading strict (jccImm c imm) :=
  ⟨0x69, _, _, _, imm.value, by cases c <;> rfl, .jccImm c imm.size, rfl, Format.jccImm_codes⟩

/-- Every instruction is reached: the constructors by format. -/
theorem Instr.hasReading (strict : Bool) (i : Instr) : i.HasReading strict := by
  cases i with
  | andRegReg a b | orRegReg a b | xorRegReg a b | addRegReg a b | subRegReg a b | mulRegReg a b
  | divRegReg a b | lduRegReg a b | ldrRegReg a b | cmpRegReg a b | leaRegInd a b =>
    exact ⟨_, _, _, _, 0, rfl, .regReg a b, rfl, {}⟩
  | andRegImm a imm | orRegImm a imm | xorRegImm a imm | addRegImm a imm | subRegImm a imm | mulRegImm a imm
  | divRegImm a imm | lduRegImm a imm | ldrRegImm a imm | cmpRegImm a imm | leaRegDir a imm =>
    exact ⟨_, _, _, _, imm.value, rfl, .regImm a imm.size, rfl, {}⟩
  | andRegInd sz a b | orRegInd sz a b | xorRegInd sz a b | addRegInd sz a b | subRegInd sz a b
  | mulRegInd sz a b | divRegInd sz a b | lduRegInd sz a b | ldrRegInd sz a b | cmpRegInd sz a b
  | inRegInd sz a b | outRegInd sz a b | setRegInd sz a b | strRegInd sz a b | inRegReg sz a b
  | outRegReg sz a b | setRegReg sz a b =>
    exact ⟨_, _, _, _, 0, rfl, .regInd sz a b, rfl, {}⟩
  | andRegDir sz a imm | orRegDir sz a imm | xorRegDir sz a imm | addRegDir sz a imm | subRegDir sz a imm
  | mulRegDir sz a imm | divRegDir sz a imm | lduRegDir sz a imm | ldrRegDir sz a imm | cmpRegDir sz a imm
  | inRegDir sz a imm | outRegDir sz a imm | setRegDir sz a imm | strRegDir sz a imm | inRegImm sz a imm
  | outRegImm sz a imm | setRegImm sz a imm =>
    exact ⟨_, _, _, _, imm.value, rfl, .regDir sz a imm.size, rfl, {}⟩
  | andRegIndIdx idx sz a b | orRegIndIdx idx sz a b | xorRegIndIdx idx sz a b | addRegIndIdx idx sz a b
  | subRegIndIdx idx sz a b | mulRegIndIdx idx sz a b | divRegIndIdx idx sz a b | lduRegIndIdx idx sz a b
  | ldrRegIndIdx idx sz a b | cmpRegIndIdx idx sz a b | inRegIndIdx idx sz a b | outRegIndIdx idx sz a b
  | setRegIndIdx idx sz a b | strRegIndIdx idx sz a b | leaRegIndIdx idx sz a b =>
    exact ⟨_, _, _, _, 0, rfl, .regIndIdx idx sz a b, rfl, {}⟩
  | andRegDirIdx idx sz a imm | orRegDirIdx idx sz a imm | xorRegDirIdx idx sz a imm
  | addRegDirIdx idx sz a imm | subRegDirIdx idx sz a imm | mulRegDirIdx idx sz a imm
  | divRegDirIdx idx sz a imm | lduRegDirIdx idx sz a imm | ldrRegDirIdx idx sz a imm
  | cmpRegDirIdx idx sz a imm | inRegDirIdx idx sz a imm | outRegDirIdx idx sz a imm
  | setRegDirIdx idx sz a imm | strRegDirIdx idx sz a imm | leaRegDirIdx idx sz a imm =>
    exact ⟨_, _, _, _, imm.value, rfl, .regDirIdx idx sz a imm.size, rfl, {}⟩
  | notReg a | negReg a | freeReg a | markReg a =>
    exact ⟨_, _, _, _, 0, rfl, .una a, rfl, {}⟩
  | popReg sz a =>
    exact ⟨_, _, _, _, 0, rfl, .unaSized sz a, rfl, {}⟩
  | pushReg sz b =>
    exact ⟨_, _, _, _, 0, rfl, .unbSized sz b, rfl, {}⟩
  | pushImm sz imm =>
    exact ⟨_, _, _, _, imm.value, rfl, .unbSizedImm sz imm.size, rfl, {}⟩
  | callReg b =>
    exact ⟨_, _, _, _, 0, rfl, .unb b, rfl, {}⟩
  | callImm imm =>
    exact ⟨_, _, _, _, imm.value, rfl, .unbImm imm.size, rfl, {}⟩
  | ret | sys | rti | nop =>
    exact ⟨_, _, _, _, 0, rfl, .bare, rfl, {}⟩
  | jneReg b => exact hasReading_jccReg strict .ne b
  | jneImm imm => exact hasReading_jccImm strict .ne imm
  | jeReg b => exact hasReading_jccReg strict .e b
  | jeImm imm => exact hasReading_jccImm strict .e imm
  | jgReg b => exact hasReading_jccReg strict .g b
  | jgImm imm => exact hasReading_jccImm strict .g imm
  | jgeReg b => exact hasReading_jccReg strict .ge b
  | jgeImm imm => exact hasReading_jccImm strict .ge imm
  | jlReg b => exact hasReading_jccReg strict .l b
  | jlImm imm => exact hasReading_jccImm strict .l imm
  | jleReg b => exact hasReading_jccReg strict .le b
  | jleImm imm => exact hasReading_jccImm strict .le imm
  | jnoReg b => exact hasReading_jccReg strict .no b
  | jnoImm imm => exact hasReading_jccImm strict .no imm
  | joReg b => exact hasReading_jccReg strict .o b
  | joImm imm => exact hasReading_jccImm strict .o imm
  | jmpReg b => exact hasReading_jccReg strict .always b
  | jmpImm imm => exact hasReading_jccImm strict .always imm

theorem Instr.wf_eq (i : Instr) : i.wf = i.imm?.all Imm.fits := by
  unfold Instr.wf
  cases i.imm? <;> rfl

theorem Instr.ilen_eq {i : Instr} {h : Header} {v : Word} (himm : i.imm? = h.imm? v) : i.ilen = h.ilen := by
  unfold Instr.ilen
  rw [himm]
  cases h <;> rfl

theorem Size.bytes_mem (sz : Size) : sz.bytes ∈ [1, 2, 4, 8] := by
  cases sz <;> decide

theorem Instr.ilen_mem (i : Instr) : i.ilen ∈ [0, 1, 2, 4, 8] := by
  unfold Instr.ilen
  cases i.imm? with
  | none => decide
  | some imm => exact List.mem_cons_of_mem 0 imm.size.bytes_mem

/-- The first byte of an encoding is a privileged one exactly for a privileged instruction (45_system.md R240). -/
theorem privilegedByte_head_encode (i : Instr) : (encode i).head?.map privilegedByte = some i.privileged := by
  cases i <;> rfl

/-! ### The legal bases (60_exceptions.md R260) -/

/-- With unused fields ignored, the base decodes. -/
def legalBase (b0 b1 b2 : Byte) : Bool := (decodeBase false b0 b1 b2).isOk

theorem exists_decodeBase_iff (b0 b1 b2 : Byte) :
    (∃ h, decodeBase false b0 b1 b2 = .ok h) ↔ legalBase b0 b1 b2 = true := by
  unfold legalBase
  cases decodeBase false b0 b1 b2 <;> simp [Except.isOk, Except.toBool]

/-- The fields its format uses decide whether a base is legal. -/
theorem Format.Codes.legalBase_iff {fmt : Format} {b0 : Byte} (hcodes : fmt.Codes b0) (b1 b2 : Byte) :
    legalBase b0 b1 b2 = true ↔
      ¬(fmt.hasImm = true ∧ 3 < (lowNibble b2).toNat) ∧ ¬(fmt.usesSize = true ∧ 3 < (lowNibble b1).toNat) ∧
        ¬(fmt.hasCond = true ∧ 8 ≤ (highNibble b2).toNat ∧ (highNibble b2).toNat ≤ 14) := by
  rw [← exists_decodeBase_iff, hcodes.decodes]
  exact Format.exists_header_iff rfl

/-- How four bases of a first byte decode: all codes zero, then the immediate's, the Size code or the condition code too
high. This tells which of the three codes the first byte uses. -/
def UsesCodes (b0 : Byte) (imm size cond : Bool) : Prop :=
  legalBase b0 0x00 0x00 = true ∧ legalBase b0 0x00 0x04 = !imm ∧ legalBase b0 0x04 0x00 = !size ∧
    legalBase b0 0x00 0x80 = !cond

theorem UsesCodes.unique {b0 : Byte} {imm size cond imm' size' cond' : Bool} (h : UsesCodes b0 imm size cond)
    (h' : UsesCodes b0 imm' size' cond') : imm = imm' ∧ size = size' ∧ cond = cond' := by
  obtain ⟨-, himm, hsize, hcond⟩ := h
  obtain ⟨-, himm', hsize', hcond'⟩ := h'
  exact ⟨Bool.not_inj (himm.symm.trans himm'), Bool.not_inj (hsize.symm.trans hsize'),
    Bool.not_inj (hcond.symm.trans hcond')⟩

/-- A first byte uses the codes that its format uses. -/
theorem Format.Codes.usesCodes {fmt : Format} {b0 : Byte} (hcodes : fmt.Codes b0) :
    UsesCodes b0 fmt.hasImm fmt.usesSize fmt.hasCond := by
  refine ⟨?_, ?_, ?_, ?_⟩ <;> rw [Bool.eq_iff_iff, hcodes.legalBase_iff] <;> simp [highNibble, lowNibble]

/-- A first byte assigned by R95 uses the codes that R88, R126 and R105 say. -/
theorem usesCodes_of_assigned : ∀ b0 ∈ Machine.assignedFirstBytes,
    UsesCodes b0 (Machine.hasImmByte b0) (Machine.usesSizeByte b0) (decide (b0 = 0x68 ∨ b0 = 0x69)) := by
  rw [← List.forall_iff_forall_mem]
  unfold UsesCodes
  decide

/-- Only the first bytes assigned by R95 begin a legal base. -/
theorem mem_assigned_of_legalBase :
    ∀ b0 : Byte, legalBase b0 0x00 0x00 = true → b0 ∈ Machine.assignedFirstBytes := by
  decide

/-! ### The statements -/

/-- Settles O5: canonical fields decode to the instruction whose encoding has them. -/
theorem decodeEncode : Obligations.DecodeEncode := by
  intro strict i rest hwf
  obtain ⟨b0, fmt, f, h, v, -, hcanonical, rfl, hcodes⟩ := i.hasReading strict
  obtain ⟨himm, hencode⟩ := hcodes.encodes strict f h hcanonical v
  rw [Instr.wf_eq, himm] at hwf
  have hbase : decodeBase strict b0 f.byte1 f.byte2 = .ok h := by
    rw [hcodes.decodes, ← hcanonical.strict_eq, Fields.ofBytes_bytes, hcanonical.header_eq_ok]
  exact decode_eq_ok_iff.mpr ⟨b0, f.byte1, f.byte2, h, v, hbase, rfl, hwf, by rw [hencode]; rfl⟩

/-- Settles O6: under STRICT_RESERVED the base is that of the encoding, and an encoding decodes either way (O5). -/
theorem strictDecodeOnlyEncodings : Obligations.StrictDecodeOnlyEncodings := by
  intro bytes i rest hdecode
  obtain ⟨b0, b1, b2, h, v, hbase, rfl, hfits, rfl⟩ := decode_eq_ok_iff.mp hdecode
  obtain ⟨g, hencoded, hstrict⟩ := exists_encodedAs hbase
  obtain ⟨himm, hencode⟩ := hencoded v
  obtain ⟨rfl, rfl⟩ := hstrict rfl
  have hwf : (h.instr v).wf = true := by rw [Instr.wf_eq, himm, hfits]
  have hbytes : b0 :: g.byte1 :: g.byte2 :: (h.tail v ++ rest) = encode (h.instr v) ++ rest := by rw [hencode]; rfl
  exact ⟨hwf, hbytes, hbytes ▸ decodeEncode false _ rest hwf⟩

/-- Settles O7: the base announces how many bytes follow, and nothing after them is looked at. -/
theorem decodeLength : Obligations.DecodeLength := by
  intro strict bytes i rest hdecode
  obtain ⟨b0, b1, b2, h, v, hbase, rfl, hfits, rfl⟩ := decode_eq_ok_iff.mp hdecode
  obtain ⟨g, hencoded, -⟩ := exists_encodedAs hbase
  have himm := (hencoded v).1
  have hilen : (h.instr v).ilen = (h.tail v).length := by rw [Instr.ilen_eq himm, Header.tail_length]
  refine ⟨by rw [Instr.wf_eq, himm, hfits], Instr.ilen_mem _, ?_, ?_, fun more => ?_⟩
  · simp only [hilen, List.length_cons, List.length_append]; omega
  · rw [hilen, Nat.add_comm]; simp
  · refine decode_eq_ok_iff.mpr ⟨b0, b1, b2, h, v, hbase, rfl, hfits, ?_⟩
    rw [hilen, Nat.add_comm]; simp

/-- Settles O8: an assigned first byte stands for a format, whose fields decide; no other byte begins a base. -/
theorem illegalBases : Obligations.IllegalBases := by
  intro b0 b1 b2
  rw [exists_decodeBase_iff]
  cases mapped b0 with
  | format fmt hcodes =>
    have hassigned := mem_assigned_of_legalBase b0 hcodes.usesCodes.1
    obtain ⟨himm, hsize, hcond⟩ := hcodes.usesCodes.unique (usesCodes_of_assigned b0 hassigned)
    rw [hcodes.legalBase_iff, himm, hsize, hcond, decide_eq_true_iff]
    exact (and_iff_right hassigned).symm
  | illegal herror =>
    obtain ⟨e, he⟩ := herror
    have hillegal : ∀ b1 b2, legalBase b0 b1 b2 = false := fun b1 b2 => by rw [legalBase, he]; rfl
    refine iff_of_false (by simp [hillegal]) fun ⟨hassigned, _⟩ => ?_
    exact absurd (usesCodes_of_assigned b0 hassigned).1 (by simp [hillegal])

/-- Settles O9: the first byte is that of the instruction's own encoding. -/
theorem privilegeKnownFromFirstByte : Obligations.PrivilegeKnownFromFirstByte := by
  intro strict b0 b1 b2 rest r hdecode
  obtain ⟨_, _, _, h, v, hbase, hinstr, -, ⟨⟩⟩ := decode_eq_ok_iff.mp hdecode
  obtain ⟨g, hencoded, -⟩ := exists_encodedAs hbase
  have hprivileged := privilegedByte_head_encode (h.instr v)
  rw [(hencoded v).2, hinstr] at hprivileged
  exact Option.some.inj hprivileged

end Sys2Proof

/-! ## Proofs of the family 40_operands: the value of an operand of each kind, and the step as the meaning of the
instruction at pc -/

namespace Sys2Proof

/-- The bytes that follow a base build the instruction they were made from. -/
theorem Header.build_tail {h : Header} {v : Word} (hfits : (h.imm? v).all Imm.fits = true) :
    h.build (h.tail v) = h.instr v := by
  cases h with
  | plain i => rfl
  | withImm sz mk => exact congrArg (fun value => mk { size := sz, value }) (Imm.bytesToWord_encode _ hfits)

/-- A string that is all one instruction: its base decodes, and the rest are the bytes the base announces. -/
theorem decode_eq_ok_nil {strict : Bool} {b0 b1 b2 : Byte} {tail : List Byte} {i : Instr}
    (hdecode : decode strict (b0 :: b1 :: b2 :: tail) = .ok (i, [])) :
    ∃ h, decodeBase strict b0 b1 b2 = .ok h ∧ tail.length = h.ilen ∧ h.build tail = i := by
  obtain ⟨_, _, _, h, v, hbase, rfl, hfits, hbytes⟩ := decode_eq_ok_iff.mp hdecode
  obtain ⟨rfl, rfl, rfl, rfl⟩ : _ = b0 ∧ _ = b1 ∧ _ = b2 ∧ tail = h.tail v := by simpa [eq_comm] using hbytes
  exact ⟨h, hbase, Header.tail_length h v, Header.build_tail hfits⟩

end Sys2Proof

namespace Sys2Proof.Machine

/-! ### Operands (40_operands.md R121 to R124) -/

/-- A memory operand is what is read at its effective address, or the MemoryFault of that read (40_operands.md R123,
60_exceptions.md R265). -/
theorem srcVal_mem {s : State} (k : Ext) {sz : Size} {m : MemOperand} {addr : Word} (hea : ea s sz m = addr) :
    (admits s .read addr sz.bytes = true → srcVal s k (.mem sz m) = .ok (widen k sz (loadValue s addr sz))) ∧
    (admits s .read addr sz.bytes = false → srcVal s k (.mem sz m) = .error (.memoryFault addr .read)) := by
  subst hea
  exact ⟨srcVal_of_admitted (src := .mem sz m) k, srcVal_of_not_admitted k⟩

/-- Settles O12: each memory mode reads at the effective address that its equation says. -/
theorem operandValues : Obligations.OperandValues := by
  intro s k b idx imm sz direct offset reads
  have hind : ea s sz (.ind b) = s.reg b := rfl
  have hdir : ea s sz (.dir imm) = direct := rfl
  have hindIdx : ea s sz (.indIdx idx b) = s.reg b + offset := rfl
  have hdirIdx : ea s sz (.dirIdx idx imm) = direct + offset := rfl
  exact ⟨rfl, rfl, srcVal_mem k hind, srcVal_mem k hdir, srcVal_mem k hindIdx, srcVal_mem k hdirIdx,
    hind, hdir, hindIdx, hdirIdx, rfl, rfl, rfl, rfl⟩

/-! ### The bytes of an instruction: its base, then its immediate (20_memory.md R57) -/

theorem readBytes_add (s : State) (a : Word) (k n : Nat) :
    readBytes s a (k + n) = readBytes s a k ++ readBytes s (a + BitVec.ofNat 64 k) n := by
  simp only [readBytes, List.range_add, List.map_append, List.map_map, byteAddr_add, Function.comp_def]

theorem admitsFetch_add (s : State) (a : Word) (k n : Nat) :
    admitsFetch s a (k + n) = (admitsFetch s a k && admitsFetch s (a + BitVec.ofNat 64 k) n) := by
  simp only [admitsFetch, List.range_add, List.all_append, List.all_map, byteAddr_add, Function.comp_def]

/-! ### Fetching, decoding and executing (40_operands.md R120) -/

/-- Past the privilege check an immediate that MemMap admits completes the instruction. -/
theorem fetchDecoded_of_admits {s : State} {b0 b1 b2 : Byte} {h : Header}
    (hbase : decodeBase s.cfg.strictReserved b0 b1 b2 = .ok h)
    (hrun : ¬(s.mode = .application ∧ privilegedByte b0 = true)) (himm : admitsFetch s (s.pc + 3) h.ilen = true) :
    fetchDecoded s b0 b1 b2 = .ok (h.build (readBytes s (s.pc + 3) h.ilen)) := by
  have hcheck : ¬(privilegedByte b0 && s.mode == .application) = true := by simpa [and_comm] using hrun
  simp only [fetchDecoded, hbase, if_neg hcheck, fetchBytes_of_admits himm]

/-- In application mode a privileged instruction is a PrivilegeViolation, whatever its operands (45_system.md R240,
60_exceptions.md R261). -/
theorem exec_of_privileged {i : Instr} {s : State} (hprivileged : i.privileged = true) (hmode : s.mode = .application) :
    exec i s = .next (s.raise (.privilegeViolation s.pc)) := by
  rw [privileged_eq_operation] at hprivileged
  rw [exec_eq_run]
  cases hop : i.operation with
  | portIn | portOut | setting | rti =>
    simp only [Operation.run, portIn, portOut, setSetting, execRti, supervisorOnly_application hmode, conclude_error]
  | _ => simp only [hop, Operation.privileged, Bool.false_eq_true] at hprivileged

/-- Running the instruction whose bytes, all of them admitted, are at pc is its meaning. The privilege check by the
first byte answers what the meaning of a privileged instruction does. -/
theorem runInstr_of_decode {s : State} {i : Instr}
    (hdecode : decode s.cfg.strictReserved (readBytes s s.pc (3 + i.ilen)) = .ok (i, []))
    (hadmits : admitsFetch s s.pc (3 + i.ilen) = true) : runInstr s = exec i s := by
  have hread : readBytes s s.pc (3 + i.ilen) = readByte s s.pc :: readByte s (s.pc + 1) :: readByte s (s.pc + 2) ::
      readBytes s (s.pc + 3) i.ilen := by
    rw [readBytes_add]
    simp [readBytes, List.range, List.range.loop, byteAddr]
  obtain ⟨hadmitsBase, hadmitsImm⟩ := Bool.and_eq_true_iff.mp (admitsFetch_add s s.pc 3 i.ilen ▸ hadmits)
  rw [hread] at hdecode
  have hprivileged := privilegeKnownFromFirstByte _ _ _ _ _ _ hdecode
  obtain ⟨h, hbase, hlength, hbuild⟩ := decode_eq_ok_nil hdecode
  have hilen : i.ilen = h.ilen := by simpa [readBytes] using hlength
  have hfetch := fetchInstr_of_admits hadmitsBase
  by_cases hrun : s.mode = .application ∧ privilegedByte (readByte s s.pc) = true
  · obtain ⟨hmode, hbyte⟩ := hrun
    rw [runInstr, hfetch, fetchDecoded_of_privileged hbase hmode hbyte,
      exec_of_privileged (hprivileged.symm.trans hbyte) hmode]
  · rw [runInstr, hfetch, fetchDecoded_of_admits hbase hrun (hilen ▸ hadmitsImm), ← hilen, hbuild]

/-- Settles O50: the sample changes nothing that fetching looks at. -/
theorem stepRunsDecoded : Obligations.StepRunsDecoded := by
  intro s i hr hq hdecode hadmits
  have hstep : step s = exec i (sampled s) :=
    (step_eq_runInstr hr hq).trans (runInstr_of_decode (s := sampled s) hdecode hadmits)
  exact ⟨hstep, fun hai hscript => by rw [hstep, State.sampled_eq_self s hai hscript]⟩

end Sys2Proof.Machine

/-! ## Proofs of the family 41_arith_logic: the results and flags of the nine ALU instructions, and the faults of DIV -/

namespace Sys2Proof.Machine

/-! ### OF and the exact signed result (10_state.md R29, 41_arith_logic.md R141) -/

/-- The sign rule for OF of a sum is the library's test for signed overflow. -/
theorem addOverflow_eq_saddOverflow (x y : Word) : addOverflow x y (x + y) = BitVec.saddOverflow x y := by
  rw [BitVec.saddOverflow_eq, addOverflow]
  rfl

theorem addOverflow_iff_not_fitsSigned (x y : Word) :
    addOverflow x y (x + y) = true ↔ ¬FitsSigned (x.toInt + y.toInt) := by
  rw [addOverflow_eq_saddOverflow]
  simp only [BitVec.saddOverflow, FitsSigned, Bool.or_eq_true, decide_eq_true_eq]
  omega

theorem mulOverflow_iff_not_fitsSigned (x y : Word) : mulOverflow x y = true ↔ ¬FitsSigned (x.toInt * y.toInt) := by
  simp only [mulOverflow, FitsSigned, Bool.or_eq_true, decide_eq_true_eq]
  omega

/-- The least word is known by its signed value. -/
theorem eq_mostNegative_iff (x : Word) : x = mostNegative ↔ x.toInt = -2 ^ 63 :=
  BitVec.toInt_inj.symm

theorem eq_allOnes_iff (x : Word) : x = BitVec.allOnes 64 ↔ x.toInt = -1 :=
  BitVec.toInt_inj.symm

/-- Of all the words only the least one has a negation that does not fit. -/
theorem mostNegative_iff_not_fitsSigned_neg (x : Word) : (x == mostNegative) = true ↔ ¬FitsSigned (-x.toInt) := by
  have hlow : -2 ^ 63 ≤ x.toInt := BitVec.le_toInt x
  have hhigh : x.toInt < 2 ^ 63 := BitVec.toInt_lt
  rw [beq_iff_eq, eq_mostNegative_iff, FitsSigned]
  omega

/-- OF = 0 is the rule of an exact result of 0, which fits: AND, OR, XOR, NOT and DIV. -/
theorem false_iff_not_fitsSigned_zero : false = true ↔ ¬FitsSigned 0 := by
  simp [FitsSigned]

/-! ### The update that completes an ALU instruction -/

/-- The flags after a result is written and pc has moved on are by ALU_FLAGS, where OF is by the exact result. -/
theorem aluFlagsRule_aluFlags (s : State) (a : Reg) (p : Word) {op : AluOp} {x y r : Word} {z : Int}
    (hovf : aluOverflow op x y r = true ↔ ¬FitsSigned z) :
    AluFlagsRule s (((aluFlags s op x y r).setReg a r).setPc p) r z := by
  unfold AluFlagsRule aluFlags
  cases s.cfg.aluFlags with
  | unspecified => exact ⟨rfl, rfl, rfl, rfl⟩
  | preserve => exact ⟨⟨rfl, rfl, rfl⟩, rfl⟩
  | result => exact ⟨beq_iff_eq, msb_iff_toInt_neg r, hovf, rfl⟩

/-- Whatever ALU_FLAGS is, the update writes one register, the flags and pc. -/
theorem writesRegister_aluFlags (s : State) (op : AluOp) (a : Reg) (x y r : Word) (len : Nat) :
    WritesRegister s (((aluFlags s op x y r).setReg a r).setPc (nextPc s len)) a r len := by
  refine ⟨by simp, fun q hq => by simp [hq.symm], by simp, sameMemory_of_mem (by simp), ?_, rfl⟩
  simp [SameSystem, SameControl, SamePorts, SameRun]

/-- An instruction of `3 + len` bytes completes with a result in a register and the flags by ALU_FLAGS, the exact
signed result being `z`. -/
def AluCompletes (s : State) (i : Instr) (a : Reg) (r : Word) (z : Int) (len : Nat) : Prop :=
  ∃ t, exec i s = .next t ∧ WritesRegister s t a r len ∧ AluFlagsRule s t r z

section Alu

variable {s : State} {i : Instr} {op : AluOp} {a : Reg} {src : Source} {r : Word} {z : Int}

/-- A two-operand ALU instruction whose Source operand is admitted and whose result exists (41_arith_logic.md R140). -/
theorem aluCompletes_binary (hop : i.operation = .binary op a src) (hadmitted : sourceAdmitted s src = true)
    (hresult : aluResult s.cfg.divSigned op (s.reg a) (sourceValue s s.cfg.narrowExt src) = .ok r)
    (hovf : aluOverflow op (s.reg a) (sourceValue s s.cfg.narrowExt src) r = true ↔ ¬FitsSigned z) :
    AluCompletes s i a r z (Source.ilen src) := by
  refine ⟨_, ?_, writesRegister_aluFlags s op a _ _ r _, aluFlagsRule_aluFlags s a _ hovf⟩
  simp only [exec_eq_run, hop, Operation.run, binaryAlu, srcVal_of_admitted _ hadmitted, hresult, conclude_ok]

/-- A two-operand ALU instruction whose Source operand is admitted and whose result does not exist. -/
theorem exec_binary_of_error {f : Fault} (hop : i.operation = .binary op a src)
    (hadmitted : sourceAdmitted s src = true)
    (hresult : aluResult s.cfg.divSigned op (s.reg a) (sourceValue s s.cfg.narrowExt src) = .error f) :
    exec i s = .next (s.raise f) := by
  simp only [exec_eq_run, hop, Operation.run, binaryAlu, srcVal_of_admitted _ hadmitted, hresult, conclude_error]

/-- NEG and NOT (41_arith_logic.md R149, R150). -/
theorem aluCompletes_unary (hop : i.operation = .unary op a)
    (hresult : aluResult s.cfg.divSigned op (s.reg a) 0 = .ok r)
    (hovf : aluOverflow op (s.reg a) 0 r = true ↔ ¬FitsSigned z) : AluCompletes s i a r z 0 := by
  refine ⟨_, ?_, writesRegister_aluFlags s op a _ _ r _, aluFlagsRule_aluFlags s a _ hovf⟩
  simp only [exec_eq_run, hop, Operation.run, unaryAlu, hresult, conclude_ok]

end Alu

/-! ### Arithmetic and logic -/

/-- Settles O14: each is the operation of its mnemonic, and its sign rule for OF is exact overflow. -/
theorem arithmeticResults : Obligations.ArithmeticResults := fun s a src hadmitted =>
  let x := s.reg a
  let y := sourceValue s s.cfg.narrowExt src
  ⟨aluCompletes_binary (operation_addInstr a src) hadmitted rfl (addOverflow_iff_not_fitsSigned x y),
    aluCompletes_binary (operation_subInstr a src) hadmitted rfl (subOverflow_iff_not_fitsSigned x y),
    aluCompletes_binary (operation_mulInstr a src) hadmitted rfl (mulOverflow_iff_not_fitsSigned x y)⟩

/-- Settles O15: each is the operation of its mnemonic, with OF = 0. -/
theorem logicResults : Obligations.LogicResults := fun _ a src hadmitted =>
  ⟨aluCompletes_binary (operation_andInstr a src) hadmitted rfl false_iff_not_fitsSigned_zero,
    aluCompletes_binary (operation_orInstr a src) hadmitted rfl false_iff_not_fitsSigned_zero,
    aluCompletes_binary (operation_xorInstr a src) hadmitted rfl false_iff_not_fitsSigned_zero⟩

/-- Settles O16: OF of NEG is set for the least word, the one whose negation does not fit. -/
theorem negNotResults : Obligations.NegNotResults := fun s a =>
  ⟨aluCompletes_unary rfl rfl (mostNegative_iff_not_fitsSigned_neg (s.reg a)),
    aluCompletes_unary rfl rfl false_iff_not_fitsSigned_zero⟩

/-! ### Division (41_arith_logic.md R147) -/

/-- The operands for which DIV has no quotient that fits: a zero divisor, or the least word by -1 when signed. -/
def NoQuotient (signed : Bool) (x y : Word) : Prop :=
  y = 0 ∨ (signed = true ∧ x.toInt = -2 ^ 63 ∧ y.toInt = -1)

theorem quotient_eq_error {signed : Bool} {x y : Word} (h : NoQuotient signed x y) :
    quotient signed x y = .error .divideError := by
  obtain rfl | ⟨rfl, hx, hy⟩ := h
  · rfl
  · rw [← eq_mostNegative_iff] at hx
    rw [← eq_allOnes_iff] at hy
    subst hx hy
    rfl

/-- The truncated quotient of two words fits in a word, but for the least word by -1. -/
theorem toInt_ofInt_tdiv {x y : Word} (h : ¬(x.toInt = -2 ^ 63 ∧ y.toInt = -1)) :
    (BitVec.ofInt 64 (x.toInt.tdiv y.toInt)).toInt = x.toInt.tdiv y.toInt := by
  rw [← eq_mostNegative_iff, ← eq_allOnes_iff, not_and_or] at h
  rw [← BitVec.toInt_sdiv_of_ne_or_ne x y h, BitVec.ofInt_toInt]

/-- The remainder that truncation leaves: smaller than the divisor, with the sign of the dividend. -/
theorem exists_signed_remainder (m : Int) {n : Int} (hn : n ≠ 0) :
    ∃ r, m = m.tdiv n * n + r ∧ |r| < |n| ∧ 0 ≤ r * m := by
  refine ⟨m.tmod n, (Int.tdiv_mul_add_tmod m n).symm, ?_, ?_⟩
  · rw [Int.abs_eq_natAbs, Int.abs_eq_natAbs, Int.natAbs_tmod]
    exact_mod_cast Nat.mod_lt _ (Int.natAbs_pos.mpr hn)
  · obtain hm | hm := le_total 0 m
    · exact mul_nonneg (Int.tmod_nonneg n hm) hm
    · have hneg : 0 ≤ (-m).tmod n := Int.tmod_nonneg n (by omega)
      rw [Int.neg_tmod] at hneg
      exact mul_nonneg_of_nonpos_of_nonpos (by omega) hm

/-- Where a signed quotient exists and fits, DIV's result is it, rounded toward zero. -/
theorem quotient_signed {x y : Word} (h : ¬NoQuotient true x y) :
    ∃ q, quotient true x y = .ok q ∧
      ∃ r : Int, x.toInt = q.toInt * y.toInt + r ∧ |r| < |y.toInt| ∧ 0 ≤ r * x.toInt := by
  obtain ⟨hy, hfits⟩ := not_or.mp h
  have hfits : ¬(x.toInt = -2 ^ 63 ∧ y.toInt = -1) := fun hxy => hfits ⟨rfl, hxy⟩
  refine ⟨BitVec.ofInt 64 (x.toInt.tdiv y.toInt), ?_, ?_⟩
  · have hwords : ¬(x = mostNegative ∧ y = BitVec.allOnes 64) := by rwa [eq_mostNegative_iff, eq_allOnes_iff]
    rw [quotient, if_neg hy, if_pos rfl, if_neg hwords]
  · rw [toInt_ofInt_tdiv hfits]
    exact exists_signed_remainder _ (mt (BitVec.toInt_inj (y := 0)).mp hy)

/-- The unsigned quotient by a divisor that is not zero. -/
theorem quotient_unsigned {x y : Word} (h : ¬NoQuotient false x y) :
    ∃ q, quotient false x y = .ok q ∧ ∃ r : Nat, x.toNat = q.toNat * y.toNat + r ∧ r < y.toNat := by
  obtain ⟨hy, -⟩ := not_or.mp h
  have hpos : 0 < y.toNat := Nat.pos_of_ne_zero fun h0 => hy (BitVec.eq_of_toNat_eq h0)
  refine ⟨x / y, ?_, x.toNat % y.toNat, ?_, Nat.mod_lt _ hpos⟩
  · rw [quotient, if_neg hy, if_neg Bool.false_ne_true, BitVec.udiv_def]
  · rw [BitVec.toNat_udiv, Nat.div_add_mod']

/-- Settles O17: DIV completes with its quotient, whose remainder is by DIV_SIGNED. -/
theorem divisionResults : Obligations.DivisionResults := by
  intro s a src hadmitted x y hy hfits
  have hquotient : ¬NoQuotient s.cfg.divSigned x y := not_or.mpr ⟨hy, hfits⟩
  have completes : ∀ q, quotient s.cfg.divSigned x y = .ok q →
      AluCompletes s (divInstr a src) a q 0 (Source.ilen src) :=
    fun q hq => aluCompletes_binary (operation_divInstr a src) hadmitted hq false_iff_not_fitsSigned_zero
  cases hsigned : s.cfg.divSigned with
  | true =>
    rw [hsigned] at hquotient completes
    obtain ⟨q, hq, remainder⟩ := quotient_signed hquotient
    obtain ⟨t, hexec, hwrites, hflags⟩ := completes q hq
    exact ⟨t, q, hexec, hwrites, hflags, fun _ => remainder, nofun⟩
  | false =>
    rw [hsigned] at hquotient completes
    obtain ⟨q, hq, remainder⟩ := quotient_unsigned hquotient
    obtain ⟨t, hexec, hwrites, hflags⟩ := completes q hq
    exact ⟨t, q, hexec, hwrites, hflags, nofun, fun _ => remainder⟩

/-- Settles O18: where no quotient fits DIV has no result, and the fault is raised on the state as it was. -/
theorem divisionFaults : Obligations.DivisionFaults := fun _ a src hadmitted hnone =>
  exec_binary_of_error (operation_divInstr a src) hadmitted (quotient_eq_error hnone)

end Sys2Proof.Machine

/-! ## Proofs of the family 42_load_store: loads, LEA and stores, a load of what was stored, and ten words of the spec's
examples -/

namespace Sys2Proof.Machine

/-! ### A value moved into a register -/

/-- Writing one register and moving pc on is all that a load does. -/
theorem writesRegister_setReg (s : State) (a : Reg) (v : Word) (len : Nat) :
    WritesRegister s ((s.setReg a v).setPc (nextPc s len)) a v len :=
  ⟨by simp, fun r hr => by simp [hr.symm], rfl, sameMemory_of_mem rfl, sameSystem_refl s, rfl⟩

/-- An instruction of `3 + len` bytes completes with a value in a register; the flags and the draw counter are as they
were. -/
def MoveCompletes (s : State) (i : Instr) (a : Reg) (v : Word) (len : Nat) : Prop :=
  ∃ t, exec i s = .next t ∧ WritesRegister s t a v len ∧ SameFlags s t ∧ t.draws = s.draws

theorem moveCompletes_of_exec {s : State} {i : Instr} {a : Reg} {v : Word} {len : Nat}
    (hexec : exec i s = .next ((s.setReg a v).setPc (nextPc s len))) : MoveCompletes s i a v len :=
  ⟨_, hexec, writesRegister_setReg s a v len, ⟨rfl, rfl, rfl⟩, rfl⟩

/-! ### LDU, LDR and LEA (42_load_store.md R170 to R172) -/

/-- LDU and LDR of an admitted Source operand, each with its way of widening. -/
theorem moveCompletes_load {s : State} {i : Instr} {k : Ext} {a : Reg} {src : Source}
    (hop : i.operation = .load k a src) (hadmitted : sourceAdmitted s src = true) :
    MoveCompletes s i a (sourceValue s k src) (Source.ilen src) := by
  apply moveCompletes_of_exec
  simp only [exec_eq_run, hop, Operation.run, load, srcVal_of_admitted _ hadmitted, conclude_ok]

/-- Settles O20: LDU and LDR are one operation, which widens with zeros or with the sign. -/
theorem loadResults : Obligations.LoadResults := fun _ a src hadmitted =>
  ⟨moveCompletes_load (operation_lduInstr a src) hadmitted, moveCompletes_load (operation_ldrInstr a src) hadmitted⟩

/-- Settles O21: LEA moves the effective address itself, and accesses no memory. -/
theorem loadAddressResults : Obligations.LoadAddressResults := fun s sz a m =>
  moveCompletes_of_exec (exec_leaInstr sz a m s)

/-! ### STR (42_load_store.md R173) -/

/-- Settles O22: the next state of STR is the store of one item, with pc moved on. -/
theorem storeResults : Obligations.StoreResults := by
  intro s sz a m hwrite
  refine ⟨_, exec_strInstr_of_admitted a hwrite, holdsAt_storeValue s _ sz _,
    sameMemoryBut_of_mem (State.mem_setPc _ _), fun r => by simp, by simp, by simp [SameFlags], ?_, by simp, rfl⟩
  simp [SameSystem, SameControl, SamePorts, SameRun]

/-! ### STR, then LDR or LDU of the same operand (42_load_store.md R175) -/

section AfterStore

variable {s t : State} {sz : Size} {m : MemOperand} {v : Word}

/-- What MemMap admits at a memory operand it still admits in a state with the same registers and parameters. -/
theorem sourceAdmitted_mem_congr (hcfg : t.cfg = s.cfg) (hregs : t.regs = s.regs)
    (hread : admits s .read (ea s sz m) sz.bytes = true) : sourceAdmitted t (.mem sz m) = true := by
  rw [sourceAdmitted, ea_congr hcfg hregs, admits_congr hcfg, hread]

/-- Where a value has been stored at a memory operand and no register has changed, the operand is the value's low bytes,
widened: the operand's address is the one stored to. -/
theorem sourceValue_of_stored (k : Ext) (hcfg : t.cfg = s.cfg) (hregs : t.regs = s.regs)
    (hmem : t.mem = (storeValue s (ea s sz m) sz v).mem) : sourceValue t k (.mem sz m) = widen k sz v := by
  have hcfg' : t.cfg = (storeValue s (ea s sz m) sz v).cfg := hcfg.trans (State.cfg_storeValue s _ sz v).symm
  have hload : loadValue t (ea s sz m) sz = truncate sz v :=
    (loadValue_congr hcfg' fun _ _ => readByte_congr hmem _).trans (loadValue_storeValue s _ sz v)
  rw [sourceValue, ea_congr hcfg hregs, hload, widen_truncate]

end AfterStore

/-- Settles O23: STR keeps the registers and the parameters, so the load reads what was stored; widening a whole word
changes nothing. -/
theorem storeThenLoad : Obligations.StoreThenLoad := by
  intro s sz a d m hwrite hread
  obtain ⟨t, hstr, hcfg, hregs, hmem⟩ : ∃ t, exec (strInstr sz a m) s = .next t ∧ t.cfg = s.cfg ∧ t.regs = s.regs ∧
      t.mem = (storeValue s (ea s sz m) sz (s.reg a)).mem :=
    ⟨_, exec_strInstr_of_admitted a hwrite, State.cfg_storeValue .., State.regs_storeValue .., State.mem_setPc ..⟩
  have hvalue (k : Ext) : sourceValue t k (.mem sz m) = widen k sz (s.reg a) :=
    sourceValue_of_stored k hcfg hregs hmem
  have hadmitted : sourceAdmitted t (.mem sz m) = true := sourceAdmitted_mem_congr hcfg hregs hread
  obtain ⟨⟨v, hldu, ⟨hv, -⟩, -⟩, ⟨u, hldr, ⟨hu, -⟩, -⟩⟩ := loadResults t d (.mem sz m) hadmitted
  rw [hvalue] at hu hv
  refine ⟨t, u, v, hstr, hldr, hu, hldu, hv, ?_⟩
  rintro rfl
  exact ⟨hu.trans (widen_word _ _), hv.trans (widen_word _ _)⟩

end Sys2Proof.Machine

namespace Sys2Proof

/-! ### Words of the spec's examples -/

/-- A word that is the encoding of a well-formed instruction decodes to it. -/
theorem decode_of_encode_eq {strict : Bool} {i : Instr} {bytes : List Byte} (hwf : i.wf = true)
    (hencode : encode i = bytes) : decode strict bytes = .ok (i, []) := by
  rw [← hencode, ← List.append_nil (encode i)]
  exact decodeEncode strict i [] hwf

/-- Settles O10: each word is the encoding of its instruction. -/
theorem exampleWords : Obligations.ExampleWords :=
  ⟨decode_of_encode_eq rfl rfl, decode_of_encode_eq rfl rfl, decode_of_encode_eq rfl rfl, decode_of_encode_eq rfl rfl,
    decode_of_encode_eq rfl rfl, decode_of_encode_eq rfl rfl, decode_of_encode_eq rfl rfl, decode_of_encode_eq rfl rfl,
    decode_of_encode_eq rfl rfl, decode_of_encode_eq rfl rfl⟩

end Sys2Proof

/-! ## Proofs of the family 43_stack: PUSH, POP, MARK, FREE and RET, a POP after a PUSH and a FREE after a MARK -/

namespace Sys2Proof.Machine

/-! ### A value read where memory holds it -/

/-- Reading a size where memory holds a value of that size: a store of the value would leave every byte as it is. -/
theorem loadValue_of_holdsAt {t : State} {addr : Word} {sz : Size} {v : Word} (h : HoldsAt t addr sz v) :
    loadValue t addr sz = truncate sz v := by
  have hbytes (i : Nat) (hi : i < sz.bytes) :
      readByte t (byteAddr addr i) = readByte (storeValue t addr sz v) (byteAddr addr i) :=
    (h i hi).trans (readByte_storeValue_inside t addr sz v hi).symm
  rw [loadValue_congr (State.cfg_storeValue t addr sz v).symm hbytes, loadValue_storeValue]

/-- A whole word that memory holds is read as it is. -/
theorem loadValue_word_of_holdsAt {t : State} {addr v : Word} (h : HoldsAt t addr .b8 v) : loadValue t addr .b8 = v := by
  rw [loadValue_of_holdsAt h]
  exact widen_word .zero v

/-- What memory holds it still holds where its bytes and the byte order of data are as they were. -/
theorem holdsAt_congr {t u : State} {addr : Word} {sz : Size} {v : Word} (h : HoldsAt t addr sz v)
    (hcfg : u.cfg = t.cfg) (hbytes : ∀ i, i < sz.bytes → readByte u (byteAddr addr i) = readByte t (byteAddr addr i)) :
    HoldsAt u addr sz v := fun i hi => by
  rw [hbytes i hi, h i hi, hcfg]

/-! ### What the instructions with one mode mean -/

theorem exec_markReg (a : Reg) (s : State) : exec (.markReg a) s = markFrame a s := rfl
theorem exec_popReg (sz : Size) (a : Reg) (s : State) : exec (.popReg sz a) s = popRegister sz a s := rfl
theorem exec_freeReg (a : Reg) (s : State) : exec (.freeReg a) s = freeFrame a s := rfl
theorem exec_ret (s : State) : exec .ret s = execRet s := rfl

/-! ### Push (43_stack.md R190) -/

/-- A system word is pushed 8 bytes below SP (43_stack.md R192). -/
theorem pushAddr_systemWord (s : State) : pushAddr s systemWord = s.sp - 8 := rfl

/-- The state after an admitted push: the item below SP, and SP moved to it. -/
def State.pushed (s : State) (v : Word) (sz : Size) : State := (storeValue s (pushAddr s sz) sz v).setSp (pushAddr s sz)

theorem push_of_admitted {s : State} {sz : Size} (v : Word) (h : admits s .write (pushAddr s sz) sz.bytes = true) :
    push s v sz = .ok (s.pushed v sz) := by
  rw [push_eq, if_pos h, State.pushed]

/-- An item of one size has been pushed; the general registers and pc are not spoken of. -/
def PushesItem (s t : State) (v : Word) (sz : Size) : Prop :=
  t.sp = pushAddr s sz ∧ HoldsAt t (pushAddr s sz) sz v ∧ SameMemoryBut s t (pushAddr s sz) sz.bytes ∧
    SameFlags s t ∧ SameSystem s t ∧ t.draws = s.draws

theorem pushesItem_pushed (s : State) (v : Word) (sz : Size) : PushesItem s (s.pushed v sz) v sz := by
  refine ⟨rfl, holdsAt_storeValue s _ sz v, sameMemoryBut_storeValue s _ sz v, ?_, ?_, ?_⟩
  all_goals simp [State.pushed, SameFlags, SameSystem, SameControl, SamePorts, SameRun]

@[simp] theorem State.sp_pushed (s : State) (v : Word) (sz : Size) : (s.pushed v sz).sp = pushAddr s sz := rfl

@[simp] theorem State.reg_pushed (s : State) (v : Word) (sz : Size) (r : Reg) : (s.pushed v sz).reg r = s.reg r := by
  simp [State.pushed]

/-- PUSH where MemMap admits the write (43_stack.md R193). -/
theorem exec_pushInstr_of_admitted {s : State} {sz : Size} (src : UnarySource)
    (h : admits s .write (pushAddr s sz) sz.bytes = true) :
    exec (pushInstr sz src) s = .next ((s.pushed (unaryData s src) sz).setPc (nextPc s (UnarySource.ilen src))) := by
  simp only [exec_eq_run, operation_pushInstr, Operation.run, pushOperand, push_of_admitted _ h, conclude_ok]

/-- MARK where MemMap admits the write (43_stack.md R195). -/
theorem exec_markReg_of_admitted {s : State} (a : Reg)
    (h : admits s .write (pushAddr s systemWord) systemWord.bytes = true) :
    exec (.markReg a) s =
      .next (((s.pushed (s.reg a) systemWord).setReg a (pushAddr s systemWord)).setPc (nextPc s 0)) := by
  simp only [exec_markReg, markFrame, push_of_admitted _ h, State.sp_pushed, conclude_ok]

/-- Settles O25: PUSH is a push with pc moved on. -/
theorem pushResults : Obligations.PushResults := by
  intro s sz src addr hwrite
  obtain ⟨hsp, hholds, hmem, hflags, hsystem, hdraws⟩ := pushesItem_pushed s (unaryData s src) sz
  exact ⟨_, exec_pushInstr_of_admitted src hwrite, hsp, hholds, hmem, fun r => State.reg_pushed s _ sz r, hflags,
    hsystem, hdraws, rfl⟩

/-- Settles O27: MARK is a push of a system word, then one register written with the new SP. -/
theorem markResults : Obligations.MarkResults := by
  intro s a hwrite
  obtain ⟨hsp, hholds, hmem, hflags, hsystem, hdraws⟩ := pushesItem_pushed s (s.reg a) systemWord
  exact ⟨_, exec_markReg_of_admitted a hwrite, hsp, by simp [pushAddr_systemWord],
    fun r hr => by simp [hr.symm], hholds, hmem, hflags, hsystem, hdraws, rfl⟩

/-! ### Pop (43_stack.md R191) -/

theorem pop_of_admitted {s : State} {sz : Size} (h : admits s .read s.sp sz.bytes = true) :
    pop s sz = .ok (loadValue s s.sp sz, s.setSp (s.sp + BitVec.ofNat 64 sz.bytes)) := by
  rw [pop_eq, if_pos h]

/-- An instruction without immediate bytes has written one general register and SP, and nothing else but pc. -/
def WritesRegisterAndSp (s t : State) (a : Reg) (v p : Word) : Prop :=
  t.reg a = v ∧ SameRegsBut s t a ∧ t.sp = p ∧ SameMemory s t ∧ SameFlags s t ∧ SameSystem s t ∧ t.draws = s.draws ∧
    t.pc = nextPc s 0

theorem writesRegisterAndSp_setReg (s : State) (a : Reg) (v p : Word) :
    WritesRegisterAndSp s (((s.setSp p).setReg a v).setPc (nextPc s 0)) a v p :=
  ⟨by simp, fun r hr => by simp [hr.symm], rfl, sameMemory_of_mem rfl, ⟨rfl, rfl, rfl⟩, sameSystem_refl s, rfl, rfl⟩

/-- POP where MemMap admits the read (43_stack.md R194). -/
theorem exec_popReg_of_admitted {s : State} {sz : Size} (a : Reg) (h : admits s .read s.sp sz.bytes = true) :
    exec (.popReg sz a) s =
      .next (((s.setSp (s.sp + BitVec.ofNat 64 sz.bytes)).setReg a
        (widen s.cfg.narrowExt sz (loadValue s s.sp sz))).setPc (nextPc s 0)) := by
  simp only [exec_popReg, popRegister, pop_of_admitted h, conclude_ok]

/-- FREE where MemMap admits the read (43_stack.md R196). -/
theorem exec_freeReg_of_admitted {s : State} {a : Reg} (h : admits s .read (s.reg a) systemWord.bytes = true) :
    exec (.freeReg a) s =
      .next (((s.setSp (s.reg a + BitVec.ofNat 64 systemWord.bytes)).setReg a
        (loadValue s (s.reg a) systemWord)).setPc (nextPc s 0)) := by
  simp only [exec_freeReg, freeFrame, memRead_eq, if_pos h, conclude_ok]

/-- RET where MemMap admits the read (44_control.md R230). -/
theorem exec_ret_of_admitted {s : State} (h : admits s .read s.sp systemWord.bytes = true) :
    exec .ret s =
      .next ((s.setSp (s.sp + BitVec.ofNat 64 systemWord.bytes)).setPc (loadValue s s.sp systemWord)) := by
  simp only [exec_ret, execRet, pop_of_admitted h, conclude_ok]

/-- Settles O26: POP writes the register and SP, and stores nothing. -/
theorem popResults : Obligations.PopResults := fun s _ a hread =>
  ⟨_, exec_popReg_of_admitted a hread, writesRegisterAndSp_setReg s a _ _⟩

/-- Settles O28: FREE writes the register and SP, both from the mark. -/
theorem freeResults : Obligations.FreeResults := fun s a hread =>
  ⟨_, exec_freeReg_of_admitted hread, writesRegisterAndSp_setReg s a _ _⟩

/-- Settles O32: RET writes SP and pc. -/
theorem returnResults : Obligations.ReturnResults := fun s hread =>
  ⟨_, exec_ret_of_admitted hread, rfl, rfl, sameMemory_of_mem rfl, fun _ => rfl, ⟨rfl, rfl, rfl⟩,
    sameSystem_refl s, rfl⟩

/-! ### An item pushed and taken back (43_stack.md R190, R191, R195, R196) -/

/-- Settles O29: the POP reads, at the SP the PUSH has left, the item the PUSH has stored. -/
theorem pushThenPop : Obligations.PushThenPop := by
  intro s sz src d hwrite hread
  obtain ⟨t, hpush, htsp, hholds, -, -, -, ⟨-, -, -, hcfg, -⟩, -, -⟩ := pushResults s sz src hwrite
  have hread' : admits t .read t.sp sz.bytes = true := by rw [admits_congr hcfg, htsp]; exact hread
  obtain ⟨u, hpop, hreg, -, husp, -⟩ := popResults t sz d hread'
  rw [hcfg, htsp, loadValue_of_holdsAt hholds, widen_truncate] at hreg
  refine ⟨t, u, hpush, hpop, hreg, by rw [husp, htsp, sub_add_cancel], ?_⟩
  rintro rfl
  exact hreg.trans (widen_word _ _)

/-- Settles O30: FREE reads the word at the mark, and the eight bytes there are still those MARK has stored. -/
theorem freeUndoesMark : Obligations.FreeUndoesMark := by
  intro s t u a hwrite hmark hreg hbytes hcfg hread
  obtain ⟨t', hmark', -, htreg, -, hholds, -, -, ⟨-, -, -, htcfg, -⟩, -, -⟩ := markResults s a hwrite
  obtain rfl : t = t' := Host.Outcome.next.inj (hmark.symm.trans hmark')
  rw [htreg] at hreg hbytes
  obtain ⟨w, hfree, hwreg, -, hwsp, -⟩ := freeResults u a hread
  rw [hreg] at hwreg hwsp
  have hsaved : HoldsAt u (s.sp - 8) .b8 (s.reg a) := holdsAt_congr hholds (hcfg.trans htcfg.symm) hbytes
  exact ⟨w, hfree, hwreg.trans (loadValue_word_of_holdsAt hsaved), hwsp.trans (sub_add_cancel _ _)⟩

end Sys2Proof.Machine

/-! ## Proofs of the family 44_control: CALL and the return from it, Jcc by its condition and after CMP, and NOP -/

namespace Sys2Proof.Machine

/-! ### CALL, and RET after it (44_control.md R212, R230) -/

/-- CALL where MemMap admits the write (44_control.md R212). -/
theorem exec_callInstr_of_admitted {s : State} (target : UnarySource)
    (h : admits s .write (pushAddr s systemWord) systemWord.bytes = true) :
    exec (callInstr target) s =
      .next ((s.pushed (nextPc s (UnarySource.ilen target)) systemWord).setPc (unaryAddr s target)) := by
  simp only [exec_eq_run, operation_callInstr, Operation.run, call, push_of_admitted _ h, conclude_ok]

/-- Settles O31: CALL is a push of the following address, with pc sent to the target. -/
theorem callResults : Obligations.CallResults := by
  intro s target hwrite
  obtain ⟨hsp, hholds, hmem, hflags, hsystem, hdraws⟩ :=
    pushesItem_pushed s (nextPc s (UnarySource.ilen target)) systemWord
  rw [← nextPc_eq]
  exact ⟨_, exec_callInstr_of_admitted target hwrite, rfl, hsp, hholds, hmem, fun r => State.reg_pushed s _ _ r,
    hflags, hsystem, hdraws⟩

/-- Settles O33: RET reads the word at SP, and the eight bytes there are still those CALL has stored. -/
theorem returnAfterCall : Obligations.ReturnAfterCall := by
  intro s t u target hwrite hcall hsp hbytes hcfg hread
  obtain ⟨t', hcall', -, htsp, hholds, -, -, -, ⟨-, -, -, htcfg, -⟩, -⟩ := callResults s target hwrite
  obtain rfl : t = t' := Host.Outcome.next.inj (hcall.symm.trans hcall')
  obtain ⟨w, hret, hwpc, hwsp, -⟩ := returnResults u hread
  rw [← nextPc_eq] at hholds
  rw [htsp] at hsp hbytes
  rw [hsp] at hwpc hwsp
  have hsaved : HoldsAt u (s.sp - 8) .b8 (nextPc s (UnarySource.ilen target)) :=
    holdsAt_congr hholds (hcfg.trans htcfg.symm) hbytes
  exact ⟨w, hret, hwpc.trans (loadValue_word_of_holdsAt hsaved), hwsp.trans (sub_add_cancel _ _)⟩

/-! ### Jcc by its condition (44_control.md R214, R216) -/

theorem exec_jccInstr (c : Cond) (target : UnarySource) (s : State) :
    exec (jccInstr c target) s =
      .next (s.setPc (if condHolds s c then unaryAddr s target else nextPc s (UnarySource.ilen target))) := by
  rw [exec_eq_run, operation_jccInstr]
  rfl

/-- Jcc goes by any test that says the same as its condition. -/
theorem exec_jccInstr_of_iff {c : Cond} {s : State} {p : Prop} [Decidable p] (h : condHolds s c = true ↔ p)
    (target : UnarySource) :
    exec (jccInstr c target) s =
      .next (s.setPc (if p then unaryAddr s target else nextPc s (UnarySource.ilen target))) := by
  simp only [exec_jccInstr, h]

section Conditions

variable (s : State)

theorem condHolds_ne : condHolds s .ne = true ↔ s.zf = false := by simp [condHolds]
theorem condHolds_e : condHolds s .e = true ↔ s.zf = true := Iff.rfl
theorem condHolds_g : condHolds s .g = true ↔ s.sf = false ∧ s.zf = false := by simp [condHolds]
theorem condHolds_ge : condHolds s .ge = true ↔ s.sf = false := by simp [condHolds]
theorem condHolds_l : condHolds s .l = true ↔ s.sf = true ∧ s.zf = false := by simp [condHolds]
theorem condHolds_no : condHolds s .no = true ↔ s.ovf = false := by simp [condHolds]
theorem condHolds_o : condHolds s .o = true ↔ s.ovf = true := Iff.rfl

/-- JLE by the parameter (44_control.md R220, log 12). -/
theorem condHolds_le : condHolds s .le = if s.cfg.jleIncludesEqual then s.sf || s.zf else s.sf := by
  cases h : s.cfg.jleIncludesEqual <;> simp [condHolds, h]

end Conditions

/-- Settles O34: the conditions are those of the table, JLE's by the parameter. -/
theorem jumpResults : Obligations.JumpResults := by
  intro s target go
  have go_of_eq {c : Cond} {taken : Bool} (h : condHolds s c = taken) : go c taken := h ▸ exec_jccInstr c target s
  exact ⟨go_of_eq rfl, go_of_eq rfl, go_of_eq rfl, go_of_eq rfl, go_of_eq rfl, go_of_eq (condHolds_le s),
    go_of_eq rfl, go_of_eq rfl, go_of_eq rfl⟩

/-! ### The flags after CMP, as Jcc reads them (44_control.md R221 to R227) -/

/-- The flags are those of a comparison of `x` with `y` (41_arith_logic.md R145). -/
structure ComparedFlags (t : State) (x y : Word) : Prop where
  zf_iff : t.zf = true ↔ x = y
  sf_iff : t.sf = true ↔ (x - y).toInt < 0
  ovf_iff : t.ovf = true ↔ ¬FitsSigned (x.toInt - y.toInt)

/-- CMP of an admitted Source operand leaves the flags of its comparison. -/
theorem comparedFlags_of_exec {s t : State} {a : Reg} {src : Source} (hadmitted : sourceAdmitted s src = true)
    (hcmp : exec (cmpInstr a src) s = .next t) : ComparedFlags t (s.reg a) (sourceValue s s.cfg.narrowExt src) := by
  obtain ⟨t', hcmp', hzf, hsf, hovf, -⟩ := cmpInstr_compareFlags s a src hadmitted
  obtain rfl : t = t' := Host.Outcome.next.inj (hcmp.symm.trans hcmp')
  exact ⟨hzf, hsf, hovf⟩

/-- A signed difference that fits in a word is the difference of the words. -/
theorem toInt_sub_of_fitsSigned {x y : Word} (h : FitsSigned (x.toInt - y.toInt)) :
    (x - y).toInt = x.toInt - y.toInt := by
  refine BitVec.toInt_sub_of_not_ssubOverflow fun hover => ?_
  rw [← subOverflow_eq_ssubOverflow, subOverflow_iff_not_fitsSigned] at hover
  exact hover h

namespace ComparedFlags

variable {t : State} {x y : Word}

theorem zf_eq_false_iff (h : ComparedFlags t x y) : t.zf = false ↔ x ≠ y := by
  rw [← Bool.not_eq_true, h.zf_iff]

/-- A result with its top bit set is not zero. -/
theorem zf_of_sf (h : ComparedFlags t x y) (hsf : t.sf = true) : t.zf = false := by
  rw [h.sf_iff] at hsf
  rw [h.zf_eq_false_iff]
  rintro rfl
  simp at hsf

theorem sf_of_zf (h : ComparedFlags t x y) (hzf : t.zf = true) : t.sf = false :=
  Bool.eq_false_iff.mpr fun hsf => by simp [h.zf_of_sf hsf] at hzf

theorem fitsSigned (h : ComparedFlags t x y) (hovf : t.ovf = false) : FitsSigned (x.toInt - y.toInt) :=
  not_not.mp fun hfits => by simp [h.ovf_iff.mpr hfits] at hovf

/-- Where the difference fits, its sign is the order of the operands. -/
theorem sf_iff_lt (h : ComparedFlags t x y) (hovf : t.ovf = false) : t.sf = true ↔ x.toInt < y.toInt := by
  rw [h.sf_iff, toInt_sub_of_fitsSigned (h.fitsSigned hovf), sub_neg]

theorem sf_eq_false_iff_le (h : ComparedFlags t x y) (hovf : t.ovf = false) : t.sf = false ↔ y.toInt ≤ x.toInt := by
  rw [← Bool.not_eq_true, h.sf_iff_lt hovf, not_lt]

theorem condHolds_ne_iff (h : ComparedFlags t x y) : condHolds t .ne = true ↔ x ≠ y :=
  (condHolds_ne t).trans h.zf_eq_false_iff

theorem condHolds_g_iff (h : ComparedFlags t x y) (hovf : t.ovf = false) :
    condHolds t .g = true ↔ y.toInt < x.toInt := by
  rw [condHolds_g, h.sf_eq_false_iff_le hovf, h.zf_eq_false_iff, lt_iff_le_and_ne, ne_comm, ne_eq, ne_eq,
    BitVec.toInt_inj]

theorem condHolds_ge_iff (h : ComparedFlags t x y) (hovf : t.ovf = false) :
    condHolds t .ge = true ↔ y.toInt ≤ x.toInt :=
  (condHolds_ge t).trans (h.sf_eq_false_iff_le hovf)

/-- After a comparison JL needs no look at ZF (44_control.md R225). -/
theorem condHolds_l_iff_sf (h : ComparedFlags t x y) : condHolds t .l = true ↔ t.sf = true :=
  (condHolds_l t).trans (and_iff_left_of_imp h.zf_of_sf)

theorem condHolds_l_iff (h : ComparedFlags t x y) (hovf : t.ovf = false) :
    condHolds t .l = true ↔ x.toInt < y.toInt :=
  h.condHolds_l_iff_sf.trans (h.sf_iff_lt hovf)

end ComparedFlags

/-! ### Jcc after CMP: the statements -/

/-- The target of the spec's examples is the same however an immediate address is widened. -/
theorem unaryAddr_example (s : State) : unaryAddr s (.imm { size := .b2, value := 1947 }) = 0x079B := by
  simp only [unaryAddr, addrImm]
  cases s.cfg.addrImmExt <;> rfl

/-- Settles O35: JNE goes by ZF, which after CMP is the equality of the operands. -/
theorem jumpNotEqual : Obligations.JumpNotEqual := by
  refine ⟨fun b => rfl, fun imm => rfl, rfl, fun s => exec_jccInstr_of_iff (condHolds_ne s),
    fun s t a src target hadmitted hcmp => ?_, fun s hpc => ?_⟩
  · exact exec_jccInstr_of_iff (comparedFlags_of_exec hadmitted hcmp).condHolds_ne_iff target
  · refine ⟨_, exec_jccInstr_of_iff (condHolds_ne s) (.imm { size := .b2, value := 1947 }),
      fun hzf => (if_pos hzf).trans (unaryAddr_example s), fun hzf => ?_⟩
    simp [hzf, nextPc, hpc, UnarySource.ilen, Size.bytes]

/-- Settles O36: JE goes by ZF, which after CMP is the equality of the operands. -/
theorem jumpEqual : Obligations.JumpEqual := by
  refine ⟨rfl, rfl, fun s => exec_jccInstr_of_iff (condHolds_e s), fun s t a src target hadmitted hcmp => ?_⟩
  exact exec_jccInstr_of_iff ((condHolds_e t).trans (comparedFlags_of_exec hadmitted hcmp).zf_iff) target

/-- Settles O37: where the difference fits, SF is the order of the operands, and ZF their equality. -/
theorem jumpGreater : Obligations.JumpGreater := by
  refine ⟨rfl, rfl, rfl, rfl, rfl,
    fun s target => ⟨exec_jccInstr_of_iff (condHolds_g s) target, exec_jccInstr_of_iff (condHolds_ge s) target⟩,
    fun s t a src target hadmitted hcmp => ?_⟩
  have hflags := comparedFlags_of_exec hadmitted hcmp
  exact ⟨hflags.sf_of_zf, fun hovf => ⟨exec_jccInstr_of_iff (hflags.condHolds_g_iff hovf) target,
    exec_jccInstr_of_iff (hflags.condHolds_ge_iff hovf) target⟩⟩

/-- Settles O38: after CMP the condition of JL is SF, which is the order of the operands where the difference fits. -/
theorem jumpLess : Obligations.JumpLess := by
  refine ⟨rfl, rfl, fun s => exec_jccInstr_of_iff (condHolds_l s), fun s t a src target hadmitted hcmp => ?_⟩
  have hflags := comparedFlags_of_exec hadmitted hcmp
  exact ⟨hflags.zf_of_sf, exec_jccInstr_of_iff hflags.condHolds_l_iff_sf target,
    fun hovf => exec_jccInstr_of_iff (hflags.condHolds_l_iff hovf) target⟩

/-- Settles O39: JNO and JO go by OF, which after CMP says whether the signed difference fits. -/
theorem jumpOverflow : Obligations.JumpOverflow := by
  refine ⟨rfl, rfl, rfl, rfl,
    fun s target => ⟨exec_jccInstr_of_iff (condHolds_no s) target, exec_jccInstr_of_iff (condHolds_o s) target⟩,
    fun s t a src target hadmitted hcmp => ?_⟩
  have htaken := (condHolds_o t).trans (comparedFlags_of_exec hadmitted hcmp).ovf_iff
  refine ⟨fun hfits => ?_, fun hover => ?_⟩
  · rw [exec_jccInstr, if_neg (htaken.not.mpr (not_not.mpr hfits))]
  · rw [exec_jccInstr, if_pos (htaken.mpr hover)]

/-! ### NOP (44_control.md R232) -/

theorem exec_nop (s : State) : exec .nop s = .next (s.setPc (s.pc + 3)) := rfl

/-- With unused fields ignored FF begins a NOP, whatever its other two bytes (30_encoding.md R104). -/
theorem decode_nop (b1 b2 : Byte) (rest : List Byte) : decode false (0xFF :: b1 :: b2 :: rest) = .ok (.nop, rest) :=
  decode_plain rest rfl

/-- Instruction bytes that are not all admitted have a first that is refused. -/
theorem exists_first_refused {s : State} {a : Word} {n : Nat} (h : admitsFetch s a n = false) :
    ∃ i, i < n ∧ admits s .fetch (byteAddr a i) 1 = false ∧
      ∀ j, j < i → admits s .fetch (byteAddr a j) 1 = true := by
  have hrefused : ∃ i, i < n ∧ admits s .fetch (byteAddr a i) 1 = false := by
    simpa [← Bool.not_eq_true, admitsFetch_iff] using h
  obtain ⟨i, ⟨hi, hfirst⟩, hbefore⟩ := Nat.findX hrefused
  refine ⟨i, hi, hfirst, fun j hj => ?_⟩
  simpa [hj.trans hi] using hbefore j hj

/-- Settles O40: NOP is decoded from any three bytes that begin with FF, and a refused one of them is the fault of the
fetch. -/
theorem noOperation : Obligations.NoOperation := by
  refine ⟨rfl, rfl, exec_nop, decode_nop, fun s hr hq hreserved hbytes => ⟨fun hadmits => ?_, fun hrefused => ?_⟩⟩
  · have hdecode : decode s.cfg.strictReserved (readBytes s s.pc 3) = .ok (.nop, []) := by
      rw [hreserved, hbytes, decode_nop]
    exact (stepRunsDecoded s .nop hr hq hdecode hadmits).1
  · obtain ⟨i, hi, hfirst, hbefore⟩ := exists_first_refused hrefused
    exact ⟨_, (fetchFaults s hr hq).1 i hi hbefore hfirst⟩

end Sys2Proof.Machine

/-! ## Proofs of the family 45_system: what application mode is confined to, the port and setting instructions in
supervisor mode, and SYS and RTI -/

namespace Sys2Proof.Machine

/-! ### Privilege (45_system.md R240, 60_exceptions.md R281) -/

/-- Settles O44: every privileged operation checks the mode first. -/
theorem privilegeViolations : Obligations.PrivilegeViolations := fun _ _ => exec_of_privileged

/-- In application mode no privileged operation has its effect. -/
theorem Operation.Effect.unprivileged {s t : State} {o : Operation} (h : Operation.Effect s t o)
    (hmode : s.mode = .application) : o.privileged = false := by
  cases o with
  | portIn a sz src | portOut a sz src | setting a sz src | rti =>
    obtain ⟨hsupervisor, -⟩ := h
    cases hsupervisor.symm.trans hmode
  | _ => rfl

/-- An unprivileged operation makes no port transfer: of the effects only those of IN and OUT do. -/
theorem Operation.Effect.samePorts {s t : State} {o : Operation} (h : Operation.Effect s t o)
    (hunprivileged : o.privileged = false) : SamePorts s t := by
  cases o with
  | binary op a src | unary op a => obtain ⟨x, y, v, rfl⟩ := h; simp [SamePorts]
  | compare a src => obtain ⟨x, y, rfl⟩ := h; simp [SamePorts]
  | load k a src => obtain ⟨v, rfl⟩ := h; simp [SamePorts]
  | address a sz m | store a sz m | push sz src | nop => cases h; simp [SamePorts]
  | pop sz a | mark a | free a => obtain ⟨v, p, rfl⟩ := h; simp [SamePorts]
  | call tg => obtain ⟨v, rfl⟩ := h; simp [SamePorts]
  | jump c tg => obtain ⟨p, rfl⟩ := h; simp [SamePorts]
  | ret => obtain ⟨p, q, rfl⟩ := h; simp [SamePorts]
  | sys => obtain ⟨v, m, k, rfl⟩ := h; simp [SamePorts]
  | portIn a sz src | portOut a sz src | setting a sz src | rti => cases hunprivileged

/-- What only a privileged instruction changes is as it was: the ports, the Vector Table, the settings and AI. -/
def KeepsPrivileged (s t : State) : Prop :=
  SamePorts s t ∧ t.vt = s.vt ∧ t.settings = s.settings ∧ t.ai = s.ai

theorem keepsPrivileged_raise (s : State) (f : Fault) : KeepsPrivileged s (s.raise f) :=
  ⟨⟨rfl, rfl⟩, rfl, rfl, rfl⟩

/-- In application mode an effect is that of an unprivileged operation, so neither of SET nor of RTI. -/
theorem Operation.Effect.keepsPrivileged {s t : State} {o : Operation} (h : Operation.Effect s t o)
    (hmode : s.mode = .application) : KeepsPrivileged s t := by
  have hunprivileged := h.unprivileged hmode
  have hset : ∀ a sz src, o ≠ .setting a sz src := by rintro a sz src rfl; cases hunprivileged
  have hrti : o ≠ .rti := by rintro rfl; cases hunprivileged
  obtain ⟨hvt, hsettings, hai, -⟩ := h.control_eq hset
  exact ⟨h.samePorts hunprivileged, hvt, hsettings, hai hrti⟩

/-- Running the instruction at pc in application mode, also where fetching or executing it faults. -/
theorem runInstr_keepsPrivileged {s t : State} (hmode : s.mode = .application) (h : runInstr s = .next t) :
    KeepsPrivileged s t := by
  obtain ⟨i, -, hrun⟩ | ⟨f, -, hrun⟩ := runInstr_cases s
  · obtain ⟨f, rfl⟩ | effect := exec_effect (hrun.symm.trans h)
    · exact keepsPrivileged_raise s f
    · exact effect.keepsPrivileged hmode
  · cases hrun.symm.trans h
    exact keepsPrivileged_raise s f

/-! ### Taking a trap (45_system.md R241, 60_exceptions.md R272) -/

/-- The state after an admitted trap: a push of the address at which to resume, the handler's mode, and pc at the entry
of the Vector Table. -/
def State.trapped (s : State) (resume : Word) (k : Nat) : State :=
  { s.pushed resume systemWord with mode := modeBy s s.cfg.modeOnEntry, pc := vectorEntry s k }

theorem trapEntry_of_admitted {s : State} (resume : Word) (k : Nat)
    (h : admits s .write (pushAddr s systemWord) systemWord.bytes = true) :
    trapEntry resume k s = .ok (s.trapped resume k) := by
  rw [trapEntry_eq, if_pos h]
  rfl

/-- A trap changes memory, SP, the mode and pc, and nothing that its push leaves alone. -/
theorem keepsPrivileged_trapped (s : State) (resume : Word) (k : Nat) : KeepsPrivileged s (s.trapped resume k) := by
  obtain ⟨-, -, -, -, ⟨⟨-, hai, hvt, hsettings⟩, hports, -⟩, -⟩ := pushesItem_pushed s resume systemWord
  exact ⟨hports, hvt, hsettings, hai⟩

/-- Interrupt entry is the trap with AI cleared, or the fault of its push. -/
theorem interruptEntry_eq_next {k : Nat} {s t : State} (h : interruptEntry k s = .next t) :
    t = { s.trapped s.pc k with ai := false } ∨ ∃ f, t = s.raise f := by
  rw [interruptEntry, trapEntry_eq] at h
  split_ifs at h with hwrite
  · cases h; exact .inl rfl
  · cases h; exact .inr ⟨_, rfl⟩

/-- Settles O60: an accepted interrupt is a trap with AI cleared, and any other step runs an instruction, whose effect
in application mode is unprivileged. -/
theorem applicationConfined : Obligations.ApplicationConfined := by
  intro s t hmode h
  obtain ⟨k, -, hk, hstep⟩ | ⟨hstep, -⟩ := step_cases (status_running_of_step h)
  · obtain rfl | ⟨f, rfl⟩ := interruptEntry_eq_next (hstep.symm.trans h)
    · obtain ⟨hports, hvt, hsettings, -⟩ := keepsPrivileged_trapped (sampled s) s.pc k
      exact ⟨hports, hvt, hsettings, .inr ⟨rfl, k, hk⟩⟩
    · exact ⟨⟨rfl, rfl⟩, rfl, rfl, .inl rfl⟩
  · obtain ⟨hports, hvt, hsettings, hai⟩ := runInstr_keepsPrivileged (s := sampled s) hmode (hstep.symm.trans h)
    exact ⟨hports, hvt, hsettings, .inl hai⟩

theorem exec_sys (s : State) : exec .sys s = execSys s := rfl

/-- Settles O45: SYS is the trap through the entry for applications, which resumes at the following instruction. -/
theorem systemCall : Obligations.SystemCall := by
  intro s hwrite
  obtain ⟨hsp, hholds, hmem, hflags, ⟨⟨-, hai, hvt, hsettings⟩, hports, hrun⟩, hdraws⟩ :=
    pushesItem_pushed s (nextPc s 0) systemWord
  refine ⟨s.trapped (nextPc s 0) s.cfg.applicationIndex, ?_, rfl, hsp, hholds, hmem, modeBy_spec s _, hai, hvt,
    hsettings, fun r => State.reg_pushed s _ _ r, hflags, hports, hrun, hdraws⟩
  rw [exec_sys, execSys, trapEntry_of_admitted _ _ hwrite, conclude_ok]

/-! ### The privileged instructions in supervisor mode (45_system.md R243, R246, R249, R252) -/

theorem exec_rti (s : State) : exec .rti s = execRti s := rfl

/-- RTI in supervisor mode where MemMap admits the read (45_system.md R243). -/
theorem exec_rti_of_admitted {s : State} (hmode : s.mode = .supervisor)
    (h : admits s .read s.sp systemWord.bytes = true) :
    exec .rti s = .next { s.setSp (s.sp + BitVec.ofNat 64 systemWord.bytes) with
      ai := true, mode := modeBy s s.cfg.modeOnRti, pc := loadValue s s.sp systemWord } := by
  rw [exec_rti, execRti, supervisorOnly_supervisor hmode, trapReturn_eq, if_pos h, conclude_ok]

/-- Settles O46: RTI writes pc, SP, AI and the mode. -/
theorem returnFromInterrupt : Obligations.ReturnFromInterrupt := fun s hmode hread =>
  ⟨_, exec_rti_of_admitted hmode hread, rfl, rfl, rfl, modeBy_spec s _, rfl, rfl, sameMemory_of_mem rfl,
    fun _ => rfl, ⟨rfl, rfl, rfl⟩, ⟨rfl, rfl⟩, ⟨rfl, rfl, rfl⟩, rfl⟩

section Supervisor

variable {s : State} {sz : Size} {src : SizedSource}

/-- IN of an admitted Source operand: the port read, its value in the register, and pc moved on. -/
theorem exec_inInstr_of_admitted (a : Reg) (hmode : s.mode = .supervisor)
    (h : sourceAdmitted s (src.withSize sz) = true) :
    exec (inInstr sz a src) s =
      let port := sourceValue s s.cfg.addrImmExt (src.withSize sz)
      .next (((portReadState s port sz).setReg a (widen s.cfg.narrowExt sz (portInput s port sz))).setPc
        (nextPc s (Source.ilen (src.withSize sz)))) := by
  simp only [exec_eq_run, operation_inInstr, Operation.run, portIn, supervisorOnly_supervisor hmode,
    srcVal_of_admitted _ h, conclude_ok]

/-- OUT of an admitted Source operand: the port write, and pc moved on. -/
theorem exec_outInstr_of_admitted (a : Reg) (hmode : s.mode = .supervisor)
    (h : sourceAdmitted s (src.withSize sz) = true) :
    exec (outInstr sz a src) s =
      .next ((portWriteState s (s.reg a) sz (sourceValue s s.cfg.narrowExt (src.withSize sz))).setPc
        (nextPc s (Source.ilen (src.withSize sz)))) := by
  simp only [exec_eq_run, operation_outInstr, Operation.run, portOut, supervisorOnly_supervisor hmode,
    srcVal_of_admitted _ h, conclude_ok]

/-- SET of an admitted Source operand: the changes of SetEffect, and pc moved on. -/
theorem exec_setInstr_of_admitted (a : Reg) (hmode : s.mode = .supervisor)
    (h : sourceAdmitted s (src.withSize sz) = true) :
    exec (setInstr sz a src) s =
      .next ((applySettings s
        (setEffect s (s.reg a) (sourceValue s s.cfg.narrowExt (src.withSize sz)) sz)).setPc
          (nextPc s (Source.ilen (src.withSize sz)))) := by
  simp only [exec_eq_run, operation_setInstr, Operation.run, setSetting, supervisorOnly_supervisor hmode,
    srcVal_of_admitted _ h, conclude_ok]

end Supervisor

/-- A port read yields no more bytes than it transfers, whether its input is supplied or free. -/
theorem truncate_portInput (s : State) (port : Word) (sz : Size) :
    truncate sz (portInput s port sz) = portInput s port sz :=
  widen_truncate .zero sz _

/-- Settles O41: IN writes the trace and the inputs by its port read, then one register and pc. -/
theorem inputResults : Obligations.InputResults := by
  intro s sz a src hmode hadmitted port d
  refine ⟨fun v later hscript => portInput_supplied hscript port sz, truncate_portInput s port sz,
    _, exec_inInstr_of_admitted a hmode hadmitted, rfl, rfl, by simp [d, port], fun r hr => by simp [hr.symm], rfl,
    sameMemory_of_mem rfl, ⟨rfl, rfl, rfl⟩, ⟨rfl, rfl, rfl, rfl⟩, ⟨rfl, rfl, rfl⟩, rfl⟩

/-- Settles O42: OUT writes the trace, by its port write, and pc. -/
theorem outputResults : Obligations.OutputResults := fun _ _ a _ hmode hadmitted =>
  ⟨_, exec_outInstr_of_admitted a hmode hadmitted, rfl, rfl, fun _ => rfl, rfl, sameMemory_of_mem rfl,
    ⟨rfl, rfl, rfl⟩, ⟨rfl, rfl, rfl, rfl⟩, ⟨rfl, rfl, rfl⟩, rfl, rfl⟩

/-- Settles O43: no change of SetEffect reaches the general registers, memory, the ports or the run; a table read after
one write holds the value at its key and what it held elsewhere. -/
theorem setResults : Obligations.SetResults := by
  refine ⟨fun s sz a src hmode hadmitted => ?_, fun s => ?_⟩
  · refine ⟨_, exec_setInstr_of_admitted a hmode hadmitted, rfl, fun r => by simp, sameMemory_of_mem (by simp), ?_, ?_,
      by simp⟩
    · simp [SamePorts]
    · simp [SameRun]
  · exact ⟨rfl, fun _ _ => rfl, fun _ => rfl, fun _ => rfl, fun _ => rfl, fun _ => rfl, fun _ => rfl, fun _ => rfl,
      fun k v => ⟨_, rfl, fun j => vectorEntry_applySetting s k j v⟩,
      fun key v => ⟨_, rfl, fun q => settingValue_applySetting s key q v⟩⟩

end Sys2Proof.Machine

/-! ## Proofs of the family 60_exceptions: precise faults, interrupt entry, the return from it, and a request that is
ignored -/

namespace Sys2Proof.Machine

/-! ### Interrupt entry (60_exceptions.md R272) -/

/-- The state after an accepted interrupt: the trap that resumes at the instruction not executed, with AI cleared. -/
def State.interrupted (s : State) (k : Nat) : State := { s.trapped s.pc k with ai := false }

/-- Interrupt entry leaves the status alone: its push writes only memory and SP. -/
@[simp] theorem State.status_interrupted (s : State) (k : Nat) : (s.interrupted k).status = s.status :=
  State.status_storeValue s _ _ _

theorem interruptEntry_of_admitted {s : State} (k : Nat)
    (h : admits s .write (pushAddr s systemWord) systemWord.bytes = true) :
    interruptEntry k s = .next (s.interrupted k) := by
  rw [interruptEntry, trapEntry_of_admitted _ _ h, conclude_ok, State.interrupted]

theorem interruptEntry_of_refused {s : State} (k : Nat)
    (h : admits s .write (pushAddr s systemWord) systemWord.bytes = false) :
    interruptEntry k s = .next (s.raise (.memoryFault (pushAddr s systemWord) .write)) := by
  rw [interruptEntry, trapEntry, push_of_refused _ h, conclude_error]

/-- Settles O47: the step is the interrupt's entry from the state sampled, which differs from the one before in nothing
that the entry reads or the statement speaks of. -/
theorem interruptAccepted : Obligations.InterruptAccepted := by
  intro s k hr hai hk
  have hstep : step s = interruptEntry k (sampled s) := step_eq_interruptEntry hr hai hk
  refine ⟨fun hwrite => ?_, fun hrefused => hstep.trans (interruptEntry_of_refused k hrefused)⟩
  obtain ⟨hsp, hholds, hmem, hflags, ⟨⟨-, -, hvt, hsettings⟩, hports, hstatus, hcfg, -⟩, -⟩ :=
    pushesItem_pushed (sampled s) s.pc systemWord
  exact ⟨(sampled s).interrupted k, hstep.trans (interruptEntry_of_admitted k hwrite), rfl, rfl, hsp, hholds, hmem,
    modeBy_spec (sampled s) _, hvt, hsettings, fun r => State.reg_pushed (sampled s) _ _ r, hflags, hports,
    hstatus.trans hr, hcfg⟩

/-- Settles O49: RTI reads the word at SP, and the eight bytes there are still those the entry has stored. -/
theorem returnAfterInterrupt : Obligations.ReturnAfterInterrupt := by
  intro s t u k hr hai hk hwrite hentry hsp hbytes hcfg hmode hread
  obtain ⟨t', hentry', -, -, htsp, hholds, -, -, -, -, -, -, -, -, htcfg⟩ := (interruptAccepted s k hr hai hk).1 hwrite
  obtain rfl : t = t' := Host.Outcome.next.inj (hentry.symm.trans hentry')
  obtain ⟨w, hrti, hwpc, hwsp, hwai, -⟩ := returnFromInterrupt u hmode hread
  rw [htsp] at hsp hbytes
  rw [hsp] at hwpc hwsp
  have hsaved : HoldsAt u (s.sp - 8) .b8 s.pc := holdsAt_congr hholds (hcfg.trans htcfg.symm) hbytes
  exact ⟨w, hrti, hwpc.trans (loadValue_word_of_holdsAt hsaved), hwsp.trans (sub_add_cancel _ _), hwai⟩

/-! ### A request while AI is false (60_exceptions.md R271) -/

theorem step_of_faulted {s : State} {f : Fault} (hs : s.status = .faulted f) : step s = .fault f := by
  simp only [step, hs]

/-- While AI is false a step looks at nothing but the state sampled. -/
theorem step_congr_of_sampled {s t : State} (hai : s.ai = false) (h : sampled t = sampled s) : step t = step s := by
  have hstatus : t.status = s.status := by simpa using congrArg State.status h
  have hai' : t.ai = false := by simpa [hai] using congrArg State.ai h
  cases hs : s.status with
  | running => rw [step_eq_runInstr (hstatus.trans hs) (.inl hai'), step_eq_runInstr hs (.inl hai), h]
  | faulted f => rw [step_of_faulted (hstatus.trans hs), step_of_faulted hs]

/-- Settles O48: the sample consumes the request, so the states sampled are the same whichever was presented. -/
theorem interruptIgnored : Obligations.InterruptIgnored := fun s _ r' later hai =>
  step_congr_of_sampled (s := { s with irqScript := r' :: later }) hai rfl

/-! ### Precise faults (60_exceptions.md R262, R267) -/

/-- An effect leaves the status alone: only `State.raise` writes it. -/
theorem Operation.Effect.status_eq {s t : State} {o : Operation} (h : Operation.Effect s t o) :
    t.status = s.status := by
  cases o with
  | binary op a src | unary op a => obtain ⟨x, y, v, rfl⟩ := h; simp
  | compare a src => obtain ⟨x, y, rfl⟩ := h; simp
  | load k a src => obtain ⟨v, rfl⟩ := h; simp
  | address a sz m | store a sz m | push sz src | nop => cases h; simp
  | pop sz a | mark a | free a => obtain ⟨v, p, rfl⟩ := h; simp
  | call tg => obtain ⟨v, rfl⟩ := h; simp
  | jump c tg => obtain ⟨p, rfl⟩ := h; simp
  | ret => obtain ⟨p, q, rfl⟩ := h; simp
  | portIn a sz src | portOut a sz src => obtain ⟨-, p, v, rfl⟩ := h; simp
  | setting a sz src => obtain ⟨-, cs, rfl⟩ := h; simp
  | sys => obtain ⟨v, m, k, rfl⟩ := h; simp
  | rti => obtain ⟨-, p, m, q, rfl⟩ := h; simp

/-- The outcome is a next state, which is running, or is the state before with only a fault recorded. -/
def AnswersPrecisely (s : State) (r : Result) : Prop :=
  ∃ t, r = .next t ∧ (t.status = .running ∨ ∃ f, t = s.raise f)

theorem answersPrecisely_raise (s : State) (f : Fault) : AnswersPrecisely s (.next (s.raise f)) :=
  ⟨_, rfl, .inr ⟨f, rfl⟩⟩

section Running

variable {s : State} (hr : s.status = .running)

include hr

theorem exec_answersPrecisely (i : Instr) : AnswersPrecisely s (exec i s) := by
  obtain ⟨t, hexec, hfault | effect⟩ := exec_cases i s
  · exact ⟨t, hexec, .inr hfault⟩
  · exact ⟨t, hexec, .inl (effect.status_eq.trans hr)⟩

/-- Running the instruction at pc, also where fetching or decoding it faults. -/
theorem runInstr_answersPrecisely : AnswersPrecisely s (runInstr s) := by
  obtain ⟨i, -, hrun⟩ | ⟨f, -, hrun⟩ := runInstr_cases s
  · rw [hrun]; exact exec_answersPrecisely hr i
  · rw [hrun]; exact answersPrecisely_raise s f

/-- Interrupt entry, also where its push is refused. -/
theorem interruptEntry_answersPrecisely (k : Nat) : AnswersPrecisely s (interruptEntry k s) := by
  cases hwrite : admits s .write (pushAddr s systemWord) systemWord.bytes with
  | true => exact ⟨_, interruptEntry_of_admitted k hwrite, .inl ((s.status_interrupted k).trans hr)⟩
  | false => rw [interruptEntry_of_refused k hwrite]; exact answersPrecisely_raise s _

/-- Either kind of step starts from the state sampled (log 20). -/
theorem step_answersPrecisely : AnswersPrecisely (sampled s) (step s) := by
  obtain ⟨k, -, -, hstep⟩ | ⟨hstep, -⟩ := step_cases hr
  · rw [hstep]; exact interruptEntry_answersPrecisely (s := sampled s) hr k
  · rw [hstep]; exact runInstr_answersPrecisely (s := sampled s) hr

end Running

/-- Settles O53: no effect stops the machine, and whatever raises a fault does so on the state it started from. -/
theorem preciseFaults : Obligations.PreciseFaults := fun _ =>
  ⟨exec_answersPrecisely, step_answersPrecisely, fun _ => step_of_faulted⟩

end Sys2Proof.Machine
